-- ==== Sys2Proof/Word.lean ====
section
/-! DEFINITION. The word types of J1939FE: the 32-bit register word (R6, REG_WIDTH), the byte of a payload
or of the stream, the register index (R6, IDX_WIDTH) and the 64-bit quantities kept in register pairs (R68). -/

namespace Sys2Proof

/-- A payload byte, a stream byte, or the ARG byte of a command word. -/
abbrev Byte := BitVec 8

/-- The index of a register in the register space (R60). -/
abbrev RegIndex := BitVec 8

/-- One host-visible register, and one command word (R6). -/
abbrev Word := BitVec 32

/-- A u64 or a binary64 pattern, held in a LO and a HI register (R68). -/
abbrev DWord := BitVec 64

end Sys2Proof
end

