-- ==== Sys2Proof/Syntax.lean ====
section
/-! DEFINITION. The six commands of the opcode map (R84), one constructor per row of spec/opcode_table.json.
Every operand but PUSH's byte is a register the command names implicitly (R81, R82). -/

namespace Sys2Proof

/-- A command of J1939FE (R84). -/
inductive Instr where
  /-- DECOMP (R102): split ID into the six header registers. -/
  | decomp
  /-- EXTBYTE (R122): byte-based extraction and scaling. -/
  | extbyte
  /-- EXTBIT (R123): bit-based extraction and scaling. -/
  | extbit
  /-- PUSH b (R151): append the byte `b` to the assembler buffer. -/
  | push (b : Byte)
  /-- POP (R152): take the next 12-byte frame out of the buffer. -/
  | pop
  /-- SRST (R170): soft reset. -/
  | srst
  deriving DecidableEq, Repr

end Sys2Proof
end

