-- ==== Sys2Proof/WellFormed.lean ====
section
/-! DEFINITION. Well-formed commands. The one immediate, PUSH's byte, has exactly the eight bits the word has
for it (R81), so its type already carries the check and no term of `Instr` is ill-formed (log 16). The lines of
the assembler notation, whose operands are numbers, have their checks in Machine/Assembler.lean. -/

namespace Sys2Proof

/-- The encoding conditions on a command (R80, R81): none beyond the operand's type. -/
def Instr.wellFormed : Instr → Bool
  | .decomp => true
  | .extbyte => true
  | .extbit => true
  | .push _ => true
  | .pop => true
  | .srst => true

end Sys2Proof
end

