-- ==== Sys2Proof/Decode.lean ====
section
/-! DEFINITION. Command words (30_encoding.md): the opcode map of R84 as a table of match and mask, the decoder
by fields (R80, R85), total on every 32-bit word and rejecting by name, and the encoder. -/

namespace Sys2Proof

/-- Why a word encodes no command, by the four kinds R85 lists. -/
inductive Reject where
  /-- ZERO, bits 31 to 16, is not zero. -/
  | zeroFieldSet
  /-- OP is 0x00 or 0x07 to 0xFF. -/
  | noSuchOp
  /-- ARG is not zero in a command that takes no byte. -/
  | argFieldSet
  deriving DecidableEq, Repr

/-- OP, bits 7 to 0 of a command word (R80). -/
def opField (w : Word) : Byte := w.extractLsb' 0 8

/-- ARG, bits 15 to 8 of a command word (R80). -/
def argField (w : Word) : Byte := w.extractLsb' 8 8

/-- ZERO, bits 31 to 16 of a command word (R80). -/
def zeroField (w : Word) : BitVec 16 := w.extractLsb' 16 16

/-- The command `i`, provided the ARG field of `w` is zero (R80: "must be 0 for every other command"). -/
def withoutArg (w : Word) (i : Instr) : Except Reject Instr :=
  if argField w = 0#8 then .ok i else .error .argFieldSet

/-- The command a word selects, or the reason it selects none (R84, R85). -/
def decode (w : Word) : Except Reject Instr :=
  if zeroField w ≠ 0#16 then .error .zeroFieldSet
  else if opField w = 0x01#8 then withoutArg w .decomp
  else if opField w = 0x02#8 then withoutArg w .extbyte
  else if opField w = 0x03#8 then withoutArg w .extbit
  else if opField w = 0x04#8 then .ok (.push (argField w))
  else if opField w = 0x05#8 then withoutArg w .pop
  else if opField w = 0x06#8 then withoutArg w .srst
  else .error .noSuchOp

/-- A command word from its OP and ARG fields, with ZERO zero (R80). -/
def commandWord (op arg : Byte) : Word := 0#16 ++ arg ++ op

/-- The word of a command (R84, R87). -/
def encode : Instr → Word
  | .decomp => commandWord 0x01#8 0#8
  | .extbyte => commandWord 0x02#8 0#8
  | .extbit => commandWord 0x03#8 0#8
  | .push b => commandWord 0x04#8 b
  | .pop => commandWord 0x05#8 0#8
  | .srst => commandWord 0x06#8 0#8

/-- A row of the opcode map: a word selects it exactly when `w & mask = match` (R84). -/
structure OpcodeRow where
  mnemonic : String
  pattern : Word
  mask : Word
  deriving DecidableEq, Repr

/-- The opcode map, row for row (R84). -/
def opcodeRows : List OpcodeRow :=
  [⟨"DECOMP", 0x00000001, 0xFFFFFFFF⟩, ⟨"EXTBYTE", 0x00000002, 0xFFFFFFFF⟩,
   ⟨"EXTBIT", 0x00000003, 0xFFFFFFFF⟩, ⟨"PUSH", 0x00000004, 0xFFFF00FF⟩,
   ⟨"POP", 0x00000005, 0xFFFFFFFF⟩, ⟨"SRST", 0x00000006, 0xFFFFFFFF⟩]

/-- Whether a word selects a row of the opcode map (R84). -/
def OpcodeRow.selects (r : OpcodeRow) (w : Word) : Bool := w &&& r.mask == r.pattern

/-- The mnemonic of a command, as the opcode map spells it. -/
def Instr.mnemonic : Instr → String
  | .decomp => "DECOMP"
  | .extbyte => "EXTBYTE"
  | .extbit => "EXTBIT"
  | .push _ => "PUSH"
  | .pop => "POP"
  | .srst => "SRST"

/-- The 32-bit command word whose low `nbits` bits are those of `w` and whose other bits are zero (log 19). -/
def tableWord (nbits w : Nat) : Word := BitVec.ofNat 32 (w % 2 ^ nbits)

/-- The command the decoder reads from a row's word of `nbits` bits. -/
def decodeTableWord (nbits w : Nat) : Option Instr :=
  match decode (tableWord nbits w) with
  | .ok i => some i
  | .error _ => none

end Sys2Proof
end

