-- ==== Sys2Proof/Config.lean ====
section
/-! DEFINITION. What the spec leaves to the implementation (ASM_CAP, R6 and D8) and the one value it leaves
free (the pattern of a NaN result, R128 and U3). Both come from constants with no body. -/

namespace Sys2Proof

/-- The free number behind `Config.asmCap`. Nothing is known of it. -/
opaque Config.asmCapDraw : Nat

/-- ASM_CAP, the capacity of the assembler buffer in bytes: any number with 24 <= ASM_CAP < 2^32 (R6, R32, D8).
Every admissible value is `asmCap` for some draw, and nothing else about it can be proved (log 5). -/
def Config.asmCap : Nat := Config.asmCapDraw % (2 ^ 32 - 24) + 24

/-- The free value behind a NaN result, for the command, DATA_LO, DATA_HI, DESC, RES and OFF it comes from, the six
things R132 lets a result depend on. `Machine.nanPattern` makes some NaN pattern of it, and every NaN pattern is
reached (R128, U3, logs 6 and 7). -/
opaque Config.nanDraw : Instr → Word → Word → Word → DWord → DWord → DWord

end Sys2Proof
end

