-- ==== Sys2Proof/Machine/State.lean ====
section
/-! DEFINITION. The state of J1939FE (10_state.md), its reset value (R39), the inputs the host gives it (R61, R200)
and the closed types of fault and refusal. -/

namespace Sys2Proof.Machine

/-- The mapped registers of the register space, in index order 0x00 to 0x14 (R21). -/
inductive Reg where
  | cmd | status | id | dataLo | dataHi | desc | resLo | resHi | offLo | offHi
  | priority | dataPage | pduFormat | pduSpecific | sourceAddress | pgn
  | rawLo | rawHi | scaledLo | scaledHi | asmCount
  deriving DecidableEq, Repr

/-- How the host may access a register (R21). -/
inductive Access where
  /-- The host may read and write. -/
  | readWrite
  /-- The host reads; host writes are ignored. -/
  | readOnly
  /-- The host writes; host reads return 0. -/
  | writeOnly
  deriving DecidableEq, Repr

/-- The result codes a command can end with (R181). -/
inductive ResultCode where
  | ok | dataTooShort | invalidDescriptor | bufferFull | noFrame | illegalCommand
  deriving DecidableEq, Repr

/-- What the outside world does to the block: the two transactions of R61 and the reset input of R200. -/
inductive HostInput where
  /-- `MemWrite(idx, 4, v)`. -/
  | write (idx : RegIndex) (v : Word)
  /-- `MemRead(idx, 4)`. -/
  | read (idx : RegIndex)
  /-- The hardware reset input is asserted (log 4). -/
  | reset
  deriving DecidableEq, Repr

/-- The whole state. The first twenty-one fields are the block's (R20); the last two are the model's own
(logs 1 and 2): what the host does next, and what its reads returned. -/
structure State where
  /-- ID (R24). -/
  id : Word
  /-- DATA_LO: data[0..3] (R25). -/
  dataLo : Word
  /-- DATA_HI: data[4..7] (R25). -/
  dataHi : Word
  /-- DESC: START in 7:0, LENGTH in 15:8, bits 31:16 hardwired zero (R26, log 11). -/
  desc : Word
  /-- RES_LO (R27). -/
  resLo : Word
  /-- RES_HI (R27). -/
  resHi : Word
  /-- OFF_LO (R28). -/
  offLo : Word
  /-- OFF_HI (R28). -/
  offHi : Word
  /-- PRIORITY (R29). -/
  priority : Word
  /-- DATA_PAGE (R29). -/
  dataPage : Word
  /-- PDU_FORMAT (R29). -/
  pduFormat : Word
  /-- PDU_SPECIFIC (R29). -/
  pduSpecific : Word
  /-- SOURCE_ADDRESS (R29). -/
  sourceAddress : Word
  /-- PGN (R29). -/
  pgn : Word
  /-- RAW_LO (R30). -/
  rawLo : Word
  /-- RAW_HI (R30). -/
  rawHi : Word
  /-- SCALED_LO (R31). -/
  scaledLo : Word
  /-- SCALED_HI (R31). -/
  scaledHi : Word
  /-- STATUS.ERR, the result code of the most recent command (R23). -/
  err : BitVec 4
  /-- STATUS.TRUNC (R23). -/
  trunc : Bool
  /-- The assembler buffer, head first (R33). -/
  buf : List Byte
  /-- The model's own: the host inputs still to come, oldest first (log 1). -/
  pending : List HostInput
  /-- The model's own: the values the host's reads returned, oldest first (log 2). -/
  returned : List Word
  deriving DecidableEq, Repr

/-- Reasons to stop with a fault: none. No transaction fails and every command is total (R61, R188), so the type
has no constructor; that is safe, since nothing of the spec is left out by it (log 9). -/
inductive Fault where
  deriving DecidableEq, Repr

/-- Reasons to refuse a command. -/
inductive Refusal where
  /-- Raised only by an arm of `exec` whose command has no meaning yet; safe (the model stops). No arm raises it:
  all six commands have their meaning. -/
  | notModelled (mnemonic : String)
  deriving DecidableEq, Repr

/-- The state after reset, each register at its value of R39. The last two fields are the model's own
(DESIGN CHOICE, logs 1 and 2). -/
def State.reset : State where
  id := 0
  dataLo := 0
  dataHi := 0
  desc := 0
  resLo := 0
  resHi := 0x3FF00000
  offLo := 0
  offHi := 0
  priority := 0
  dataPage := 0
  pduFormat := 0
  pduSpecific := 0
  sourceAddress := 0
  pgn := 0
  rawLo := 0
  rawHi := 0
  scaledLo := 0
  scaledHi := 0
  err := 0
  trunc := false
  buf := []
  pending := []
  returned := []

end Sys2Proof.Machine
end

