-- ==== Sys2Proof/Machine/Operands.lean ====
section
/-! DEFINITION. The operand views of the register file: the index of each register (R21), the payload bytes and the
u64 D (R25), the descriptor fields (R26), and the 64-bit pairs RES, OFF, RAW, SCALED (R27, R28, R30, R31, R68). -/

namespace Sys2Proof.Machine

/-- The index of a register (R21). -/
def Reg.idx : Reg → RegIndex
  | .cmd => 0x00#8
  | .status => 0x01#8
  | .id => 0x02#8
  | .dataLo => 0x03#8
  | .dataHi => 0x04#8
  | .desc => 0x05#8
  | .resLo => 0x06#8
  | .resHi => 0x07#8
  | .offLo => 0x08#8
  | .offHi => 0x09#8
  | .priority => 0x0A#8
  | .dataPage => 0x0B#8
  | .pduFormat => 0x0C#8
  | .pduSpecific => 0x0D#8
  | .sourceAddress => 0x0E#8
  | .pgn => 0x0F#8
  | .rawLo => 0x10#8
  | .rawHi => 0x11#8
  | .scaledLo => 0x12#8
  | .scaledHi => 0x13#8
  | .asmCount => 0x14#8

/-- The mapped registers in index order (R21). -/
def mappedRegs : List Reg :=
  [.cmd, .status, .id, .dataLo, .dataHi, .desc, .resLo, .resHi, .offLo, .offHi, .priority, .dataPage, .pduFormat,
   .pduSpecific, .sourceAddress, .pgn, .rawLo, .rawHi, .scaledLo, .scaledHi, .asmCount]

/-- The register at an index; `none` for the unmapped indices 0x15 to 0xFF (R21, R60). -/
def Reg.ofIdx (idx : RegIndex) : Option Reg := mappedRegs[idx.toNat]?

/-- How the host may access each register (R21). -/
def Reg.access : Reg → Access
  | .cmd => .writeOnly
  | .status => .readOnly
  | .id => .readWrite
  | .dataLo => .readWrite
  | .dataHi => .readWrite
  | .desc => .readWrite
  | .resLo => .readWrite
  | .resHi => .readWrite
  | .offLo => .readWrite
  | .offHi => .readWrite
  | .priority => .readOnly
  | .dataPage => .readOnly
  | .pduFormat => .readOnly
  | .pduSpecific => .readOnly
  | .sourceAddress => .readOnly
  | .pgn => .readOnly
  | .rawLo => .readOnly
  | .rawHi => .readOnly
  | .scaledLo => .readOnly
  | .scaledHi => .readOnly
  | .asmCount => .readOnly

/-- Byte `i` of the payload held in two words, for `i` from 0 to 7 (R25). -/
def byteOf (lo hi : Word) (i : Nat) : Byte :=
  if i < 4 then lo.extractLsb' (8 * i) 8 else hi.extractLsb' (8 * (i - 4)) 8

/-- Payload byte `data[i]` (R25). -/
def payloadByte (s : State) (i : Nat) : Byte := byteOf s.dataLo s.dataHi i

/-- D, the payload as a little-endian u64: `{DATA_HI, DATA_LO}` (R25). -/
def payload (s : State) : DWord := s.dataHi ++ s.dataLo

/-- DESC.START, bits 7:0, as a number (R26). -/
def descStart (s : State) : Nat := (s.desc.extractLsb' 0 8).toNat

/-- DESC.LENGTH, bits 15:8, as a number (R26). -/
def descLength (s : State) : Nat := (s.desc.extractLsb' 8 8).toNat

/-- RES, the resolution as a binary64 pattern (R27). -/
def resolution (s : State) : DWord := s.resHi ++ s.resLo

/-- OFF, the offset as a binary64 pattern (R28). -/
def offset (s : State) : DWord := s.offHi ++ s.offLo

/-- RAW (R30). -/
def rawValue (s : State) : DWord := s.rawHi ++ s.rawLo

/-- SCALED as a binary64 pattern (R31). -/
def scaledValue (s : State) : DWord := s.scaledHi ++ s.scaledLo

/-- Bits 31..0 of a 64-bit quantity, for its LO register (R68). -/
def loHalf (v : DWord) : Word := v.extractLsb' 0 32

/-- Bits 63..32 of a 64-bit quantity, for its HI register (R68). -/
def hiHalf (v : DWord) : Word := v.extractLsb' 32 32

/-- `be32(b0, b1, b2, b3)`: the u32 whose most significant byte is `b0` (R11, R65). -/
def be32 (b0 b1 b2 b3 : Byte) : Word := b0 ++ b1 ++ b2 ++ b3

/-- The u32 whose least significant byte is `b0`, as POP and `setdata` build the payload words (R152, R88). -/
def le32 (b0 b1 b2 b3 : Byte) : Word := b3 ++ b2 ++ b1 ++ b0

end Sys2Proof.Machine
end

