-- ==== Sys2Proof/Machine/Binary64.lean ====
section
/-! DEFINITION. The binary64 arithmetic of scaling (R10, R125 to R128): a pattern is read as an exact number of
units of 2^-1074 (the least positive binary64), the operation is computed exactly on natural numbers or integers,
and the result is rounded once, to nearest with ties to even (D9, log 8). `none` stands for a NaN result, whose
pattern the spec leaves open (R128, U3). -/

namespace Sys2Proof.Machine

/-- The number of units of 2^-1074 in the value 1. -/
def unitsPerOne : Nat := 2 ^ 1074

/-- What a binary64 pattern stands for. A finite value is `± units * 2^-1074`. -/
inductive Fp where
  | nan
  | infinity (negative : Bool)
  | finite (negative : Bool) (units : Nat)
  deriving DecidableEq, Repr

/-- The sign bit of a pattern. -/
def signBit (p : DWord) : Bool := p.getLsbD 63

/-- The biased exponent of a pattern, 11 bits (K2). -/
def exponentField (p : DWord) : Nat := (p.extractLsb' 52 11).toNat

/-- The fraction of a pattern, 52 bits (K2). -/
def fractionField (p : DWord) : Nat := (p.extractLsb' 0 52).toNat

/-- The value of a pattern: infinities and NaNs at exponent 2047, subnormals and zeros at exponent 0 (K2). -/
def fpValue (p : DWord) : Fp :=
  if exponentField p = 2047 then
    if fractionField p = 0 then .infinity (signBit p) else .nan
  else if exponentField p = 0 then .finite (signBit p) (fractionField p)
  else .finite (signBit p) ((2 ^ 52 + fractionField p) * 2 ^ (exponentField p - 1))

/-- The number of low bits a quotient must lose to be left with 53 (none when it has at most 53). -/
def dropCount (q : Nat) : Nat := q.log2 - 52

/-- `n / d` rounded to the nearest integer, ties to the even one (D9). -/
def nearestEven (n d : Nat) : Nat :=
  if d < 2 * (n % d) ∨ (2 * (n % d) = d ∧ n / d % 2 = 1) then n / d + 1 else n / d

/-- The magnitude bits of an infinity. -/
def infinityBits : Nat := 2047 * 2 ^ 52

/-- The magnitude bits (sign clear) of the binary64 nearest to `n / d` units of 2^-1074: the significand of 53 bits
that `nearestEven` leaves stands in the low bits, the count of bits dropped is added into the exponent field, and a
value past the largest finite one becomes infinity (R127). -/
def roundedBits (n d : Nat) : Nat :=
  let t := dropCount (n / d)
  min (2 ^ 52 * t + nearestEven n (d * 2 ^ t)) infinityBits

/-- The pattern with the given sign and magnitude bits. -/
def fpPattern (negative : Bool) (bits : Nat) : DWord := BitVec.ofBool negative ++ BitVec.ofNat 63 bits

/-- `cvt_u64_f64(n)` (R126). -/
def cvtU64 (n : DWord) : DWord := fpPattern false (roundedBits (unitsPerOne * n.toNat) 1)

/-- `fmul(a, b)` (R127, R128): the sign is the exclusive or of the signs; 0 times infinity is a NaN. -/
def fmul (a b : DWord) : Option DWord :=
  match fpValue a, fpValue b with
  | .nan, _ => none
  | _, .nan => none
  | .infinity x, .infinity y => some (fpPattern (x ^^ y) infinityBits)
  | .infinity x, .finite y n => if n = 0 then none else some (fpPattern (x ^^ y) infinityBits)
  | .finite x m, .infinity y => if m = 0 then none else some (fpPattern (x ^^ y) infinityBits)
  | .finite x m, .finite y n => some (fpPattern (x ^^ y) (roundedBits (m * n) unitsPerOne))

/-- A finite value as an integer number of units. -/
def signedUnits (negative : Bool) (units : Nat) : Int := if negative then -(units : Int) else units

/-- The sign of a sum of finite values: that of the exact sum, and for a zero sum negative only when both addends
are (R128: opposite signs give +0.0). -/
def sumSign (x y : Bool) (sum : Int) : Bool := if sum = 0 then x && y else sum < 0

/-- `fadd(a, b)` (R127, R128): infinities of opposite signs give a NaN. -/
def fadd (a b : DWord) : Option DWord :=
  match fpValue a, fpValue b with
  | .nan, _ => none
  | _, .nan => none
  | .infinity x, .infinity y => if x = y then some (fpPattern x infinityBits) else none
  | .infinity x, .finite _ _ => some (fpPattern x infinityBits)
  | .finite _ _, .infinity y => some (fpPattern y infinityBits)
  | .finite x m, .finite y n =>
    let sum := signedUnits x m + signedUnits y n
    some (fpPattern (sumSign x y sum) (roundedBits sum.natAbs 1))

/-- `scale(raw, RES, OFF) = fadd(fmul(cvt_u64_f64(raw), RES), OFF)`, the product rounded before the sum (R125);
`none` when the rules make it a NaN (R128). -/
def scale (raw res off : DWord) : Option DWord :=
  match fmul (cvtU64 raw) res with
  | none => none
  | some product => fadd product off

/-- Whether a pattern encodes a NaN: exponent all ones, fraction not zero (U3). -/
def isNan (p : DWord) : Bool := exponentField p = 2047 && fractionField p ≠ 0

/-- A NaN pattern made of a free draw: its sign, and a fraction from 1 to 2^52 - 1. Every NaN pattern is one of
these (U3, log 6). -/
def nanPattern (draw : DWord) : DWord :=
  fpPattern (signBit draw) (infinityBits + (fractionField draw % (2 ^ 52 - 1) + 1))

end Sys2Proof.Machine
end

