-- ==== Sys2Proof/Machine/Flags.lean ====
section
/-! DEFINITION. STATUS and its fields (R23, R63), the live buffer flags (R23, R33) and ASM_COUNT (R32), and the
numbers of the result codes (R181). The functions that depend on ASM_CAP take it as an argument `cap`. -/

namespace Sys2Proof.Machine

/-- The number of a result code (R181). -/
def ResultCode.code : ResultCode → BitVec 4
  | .ok => 0
  | .dataTooShort => 1
  | .invalidDescriptor => 2
  | .bufferFull => 3
  | .noFrame => 4
  | .illegalCommand => 5

/-- The number of bytes in a stream frame, FRAME_BYTES (R6). -/
abbrev frameBytes : Nat := 12

/-- FRAME_RDY: a whole frame is buffered (R23). -/
def frameReady (s : State) : Bool := frameBytes ≤ s.buf.length

/-- FULL: the buffer holds `cap` bytes (R23). -/
def bufferIsFull (cap : Nat) (s : State) : Bool := s.buf.length = cap

/-- ASM_COUNT: `zext_32(len(buf))` (R32). -/
def asmCount (s : State) : Word := BitVec.ofNat 32 s.buf.length

/-- STATUS as a read returns it: `{0[24:0], FULL, FRAME_RDY, TRUNC, ERR[3:0]}` (R63). -/
def statusWord (cap : Nat) (s : State) : Word :=
  0#25 ++ BitVec.ofBool (bufferIsFull cap s) ++ BitVec.ofBool (frameReady s) ++ BitVec.ofBool s.trunc ++ s.err

/-- The TRUNC flag of an EXTBIT that still wanted `remaining` bits when it stopped (R123). -/
def truncatedFlag (remaining : Nat) : Bool := 0 < remaining

end Sys2Proof.Machine
end

