-- ==== Sys2Proof/Machine/Ops.lean ====
section
/-! DEFINITION. The named operations over the state: host reads and writes (R62 to R64), ending a command with a
result code (R180, R191: the block's only exception mechanism; it has no return, R192), the buffer operations (R33,
R151, R152), the writes of the header and result registers (R102, R122, R123) and reset (R39, R170, R200). -/

namespace Sys2Proof.Machine

/-- `raise <Code>` (R11, R180, R191): STATUS.ERR takes the code and nothing else changes. It goes nowhere: there is
no saved state and no handler. -/
def raise (c : ResultCode) (s : State) : State := { s with err := c.code }

/-- A command that did what its rule says ends with code 0 (R180). -/
def finishOk (s : State) : State := { s with err := ResultCode.ok.code }

/-- The value of a register as a host read returns it (R63). -/
def readReg (cap : Nat) (s : State) : Reg → Word
  | .cmd => 0
  | .status => statusWord cap s
  | .id => s.id
  | .dataLo => s.dataLo
  | .dataHi => s.dataHi
  | .desc => s.desc
  | .resLo => s.resLo
  | .resHi => s.resHi
  | .offLo => s.offLo
  | .offHi => s.offHi
  | .priority => s.priority
  | .dataPage => s.dataPage
  | .pduFormat => s.pduFormat
  | .pduSpecific => s.pduSpecific
  | .sourceAddress => s.sourceAddress
  | .pgn => s.pgn
  | .rawLo => s.rawLo
  | .rawHi => s.rawHi
  | .scaledLo => s.scaledLo
  | .scaledHi => s.scaledHi
  | .asmCount => asmCount s

/-- `MemRead(idx, 4)`: the value returned; unmapped indices read 0 (R63, R64). -/
def hostRead (s : State) (idx : RegIndex) : Word :=
  match Reg.ofIdx idx with
  | some r => readReg Config.asmCap s r
  | none => 0

/-- DESC keeps bits 15:0 of a written value; bits 31:16 are hardwired zero (R26, R62). -/
def descMask (v : Word) : Word := (v.extractLsb' 0 16).zeroExtend 32

/-- What a host write stores: a readable and writable register takes the value, DESC its low half, and a write to
a read-only register is ignored (R62). CMD stores nothing (R22). -/
def writeReg (r : Reg) (v : Word) (s : State) : State :=
  match r with
  | .cmd => s
  | .status => s
  | .id => { s with id := v }
  | .dataLo => { s with dataLo := v }
  | .dataHi => { s with dataHi := v }
  | .desc => { s with desc := descMask v }
  | .resLo => { s with resLo := v }
  | .resHi => { s with resHi := v }
  | .offLo => { s with offLo := v }
  | .offHi => { s with offHi := v }
  | .priority => s
  | .dataPage => s
  | .pduFormat => s
  | .pduSpecific => s
  | .sourceAddress => s
  | .pgn => s
  | .rawLo => s
  | .rawHi => s
  | .scaledLo => s
  | .scaledHi => s
  | .asmCount => s

/-- The part of `MemWrite(idx, 4, v)` that stores a value; unmapped indices ignore it (R62, R64). -/
def hostWrite (idx : RegIndex) (v : Word) (s : State) : State :=
  match Reg.ofIdx idx with
  | some r => writeReg r v s
  | none => s

/-- The host sees the value its read returned (R61, log 2). -/
def returnToHost (v : Word) (s : State) : State := { s with returned := s.returned ++ [v] }

/-- Every piece of the block's state takes its reset value (R39, R170, R200). The model's own fields are no part
of the block and stay (log 4). -/
def resetBlock (s : State) : State :=
  { State.reset with pending := s.pending, returned := s.returned }

/-- The six header registers, written together (R29, R102). -/
def writeHeader (priority dataPage pduFormat pduSpecific sourceAddress pgn : Word) (s : State) : State :=
  { s with
    priority := priority, dataPage := dataPage, pduFormat := pduFormat, pduSpecific := pduSpecific
    sourceAddress := sourceAddress, pgn := pgn }

/-- The pattern SCALED takes when the extract command `i` has gathered a raw value: the one the rules fix for it with
RES and OFF, or, where they make it a NaN, a free NaN pattern (R125 to R128, R132, U3, logs 6 and 7). -/
def scaledPattern (i : Instr) (raw : DWord) (s : State) : DWord :=
  match scale raw (resolution s) (offset s) with
  | some p => p
  | none => nanPattern (Config.nanDraw i s.dataLo s.dataHi s.desc (resolution s) (offset s))

/-- The result of a successful extract: RAW, SCALED and TRUNC together (R30, R31, R122, R123). -/
def writeExtract (i : Instr) (raw : DWord) (truncated : Bool) (s : State) : State :=
  { s with
    rawLo := loHalf raw, rawHi := hiHalf raw
    scaledLo := loHalf (scaledPattern i raw s)
    scaledHi := hiHalf (scaledPattern i raw s)
    trunc := truncated }

/-- A byte enters the buffer at the tail (R33, R151). -/
def appendByte (b : Byte) (s : State) : State := { s with buf := s.buf ++ [b] }

/-- `buf[k]`, the k-th byte from the head (R11). Used only below the buffer's length. -/
def bufByte (s : State) (k : Nat) : Byte := s.buf.getD k 0

/-- The first twelve bytes leave the buffer into ID (big-endian) and DATA (R65, R152). -/
def takeFrame (s : State) : State :=
  { s with
    id := be32 (bufByte s 0) (bufByte s 1) (bufByte s 2) (bufByte s 3)
    dataLo := le32 (bufByte s 4) (bufByte s 5) (bufByte s 6) (bufByte s 7)
    dataHi := le32 (bufByte s 8) (bufByte s 9) (bufByte s 10) (bufByte s 11)
    buf := s.buf.drop frameBytes }

/-- The word the host writes to CMD, if that is what an input does (R22). -/
def commandOf : HostInput → Option Word
  | .write idx v => if Reg.ofIdx idx = some .cmd then some v else none
  | .read _ => none
  | .reset => none

/-- An input that starts no command: a write that only stores, a read, or the reset input (R61, R62, R63, R200). -/
def transact (t : HostInput) (s : State) : State :=
  match t with
  | .write idx v => hostWrite idx v s
  | .read idx => returnToHost (hostRead s idx) s
  | .reset => resetBlock s

/-- The state with the oldest pending input taken out (R61, R72). -/
def takeInput (rest : List HostInput) (s : State) : State := { s with pending := rest }

/-- An illegal command (R85, R171): STATUS.ERR becomes 5 and nothing else changes. -/
def illegalCommand (s : State) : State := raise .illegalCommand s

end Sys2Proof.Machine
end

