-- ==== Sys2Proof/Machine/Assemble.lean ====
section
/-! DEFINITION. The frame assembler: PUSH and POP (42_frame_assemble.md). -/

namespace Sys2Proof.Machine

/-- PUSH b into a buffer of capacity `cap` (R151): refused with BufferFull when it is full, the byte not kept. -/
def pushByte (cap : Nat) (b : Byte) (s : State) : State :=
  if s.buf.length = cap then raise .bufferFull s else finishOk (appendByte b s)

/-- PUSH b (R151), with the implementation's ASM_CAP. -/
def execPush (b : Byte) (s : State) : Host.Outcome State Fault Refusal :=
  .next (pushByte Config.asmCap b s)

/-- POP (R152): NoFrame when fewer than twelve bytes are buffered. -/
def execPop (s : State) : Host.Outcome State Fault Refusal :=
  if s.buf.length < frameBytes then .next (raise .noFrame s) else .next (finishOk (takeFrame s))

end Sys2Proof.Machine
end

