-- ==== Sys2Proof/Machine/Decompose.lean ====
section
/-! DEFINITION. The identifier decomposer: DECOMP (40_id_decompose.md). -/

namespace Sys2Proof.Machine

/-- priority = id[28:26] (R100). -/
def idPriority (id : Word) : BitVec 3 := id.extractLsb' 26 3

/-- data_page = id[24] (R100). -/
def idDataPage (id : Word) : BitVec 1 := id.extractLsb' 24 1

/-- pdu_format = id[23:16] (R100). -/
def idPduFormat (id : Word) : Byte := id.extractLsb' 16 8

/-- pdu_specific = id[15:8] (R100). -/
def idPduSpecific (id : Word) : Byte := id.extractLsb' 8 8

/-- source_address = id[7:0] (R100). -/
def idSourceAddress (id : Word) : Byte := id.extractLsb' 0 8

/-- pgn: pdu_format above pdu_specific, with no data page and for every pdu_format (R100, R101). -/
def idPgn (id : Word) : BitVec 16 := idPduFormat id ++ idPduSpecific id

/-- DECOMP (R102). It never fails. -/
def execDecomp (s : State) : Host.Outcome State Fault Refusal :=
  .next (finishOk (writeHeader ((idPriority s.id).zeroExtend 32) ((idDataPage s.id).zeroExtend 32)
    ((idPduFormat s.id).zeroExtend 32) ((idPduSpecific s.id).zeroExtend 32)
    ((idSourceAddress s.id).zeroExtend 32) ((idPgn s.id).zeroExtend 32) s))

end Sys2Proof.Machine
end

