-- ==== Sys2Proof/Machine/Extract.lean ====
section
/-! DEFINITION. The SPN extractor: EXTBYTE and EXTBIT (41_spn_extract.md), each as its rule's own loop. -/

namespace Sys2Proof.Machine

/-- The source's invariant on a descriptor, broken (R121). -/
def descInvalid (s : State) : Bool := descStart s = 0 || descLength s = 0

/-- EXTBYTE's loop (R122) on a payload: `k` bytes from index `first` on, the first one lowest. -/
def gatherBytes (lo hi : Word) (first : Nat) : Nat → DWord
  | 0 => 0
  | k + 1 => gatherBytes lo hi first k ||| ((byteOf lo hi (first + k)).zeroExtend 64 <<< (8 * k))

/-- The chunk of `take` bits of a byte from `bitOff` upward: `(byte >> bitOff) & (2^take - 1)` (R67, R123). -/
def bitChunk (byte : Byte) (bitOff take : Nat) : Nat := (byte.toNat >>> bitOff) &&& (2 ^ take - 1)

/-- EXTBIT's loop (R123) on a payload: the raw value gathered, and the number of bits still wanted when it stops. `fuel` bounds
the passes; eight are enough, since each moves to the next of eight bytes (R213). -/
def gatherBits (lo hi : Word) : (fuel byteIdx bitOff filled remaining : Nat) → DWord → DWord × Nat
  | 0, _, _, _, remaining, raw => (raw, remaining)
  | fuel + 1, byteIdx, bitOff, filled, remaining, raw =>
    if 0 < remaining ∧ byteIdx < 8 then
      let take := min (8 - bitOff) remaining
      let chunk := BitVec.ofNat 64 (bitChunk (byteOf lo hi byteIdx) bitOff take)
      gatherBits lo hi fuel (byteIdx + 1) 0 (filled + take) (remaining - take) (raw ||| (chunk <<< filled))
    else (raw, remaining)

/-- EXTBIT's loop from its initial values, for a 1-indexed start and a length in bits (R123). -/
def bitField (lo hi : Word) (start length : Nat) : DWord × Nat :=
  gatherBits lo hi 8 ((start - 1) / 8) ((start - 1) % 8) 0 length 0

/-- EXTBYTE (R122). -/
def execExtbyte (s : State) : Host.Outcome State Fault Refusal :=
  if descInvalid s then .next (raise .invalidDescriptor s)
  else if 8 < (descStart s - 1) + descLength s then .next (raise .dataTooShort s)
  else
    let raw := gatherBytes s.dataLo s.dataHi (descStart s - 1) (descLength s)
    .next (finishOk (writeExtract .extbyte raw false s))

/-- EXTBIT (R123). Running out of payload is reported by TRUNC, never by DataTooShort. -/
def execExtbit (s : State) : Host.Outcome State Fault Refusal :=
  if descInvalid s then .next (raise .invalidDescriptor s)
  else
    let field := bitField s.dataLo s.dataHi (descStart s) (descLength s)
    .next (finishOk (writeExtract .extbit field.1 (truncatedFlag field.2) s))

end Sys2Proof.Machine
end

