-- ==== Sys2Proof/Machine/System.lean ====
section
/-! DEFINITION. The system command SRST (43_system.md R170). Illegal words are `illegalCommand` of Ops.lean (R171). -/

namespace Sys2Proof.Machine

/-- SRST (R170): the state is that of the reset input (R201). ERR 0 is both the reset value and this command's code. -/
def execSrst (s : State) : Host.Outcome State Fault Refusal := .next (resetBlock s)

end Sys2Proof.Machine
end

