-- ==== Sys2Proof/Machine/Dispatch.lean ====
section
/-! DEFINITION. The meaning of each command, one arm per constructor of Instr. -/

namespace Sys2Proof.Machine

def exec (i : Instr) (s : State) : Host.Outcome State Fault Refusal :=
  match i with
  | .decomp => Sys2Proof.Machine.execDecomp s
  | .extbyte => Sys2Proof.Machine.execExtbyte s
  | .extbit => Sys2Proof.Machine.execExtbit s
  | .push b => Sys2Proof.Machine.execPush b s
  | .pop => Sys2Proof.Machine.execPop s
  | .srst => Sys2Proof.Machine.execSrst s

end Sys2Proof.Machine
end

