-- ==== Sys2Proof/Machine/Step.lean ====
section
/-! DEFINITION. One step: the block takes the host's oldest pending input and completes it (R5, R61, R72). -/

namespace Sys2Proof.Machine

/-- A write of CMD executes the command the word encodes, before the write completes (R22, R85). -/
def runCommand (w : Word) (s : State) : Host.Outcome State Fault Refusal :=
  match decode w with
  | .ok i => exec i s
  | .error _ => .next (illegalCommand s)

/-- One host input is taken and completed. With none pending the block does nothing (R5, log 3). -/
def step (s : State) : Host.Outcome State Fault Refusal :=
  match s.pending with
  | [] => .next s
  | t :: rest =>
    match commandOf t with
    | some w => runCommand w (takeInput rest s)
    | none => .next (transact t (takeInput rest s))

/-- The state in which the host's very next input is the CMD write of the given table word (log 1). -/
def State.withFetchWord (s : State) (nbits w : Nat) : State :=
  { s with pending := .write Reg.cmd.idx (tableWord nbits w) :: s.pending }

end Sys2Proof.Machine
end

