-- ==== Sys2Proof/Machine/Assembler.lean ====
section
/-! DEFINITION. The notation in which host programs are written (R87, R88), as abstract syntax, with the conditions on
its numbers and its expansion into host transactions, and the way an SPN definition is conveyed (R83). It is no part of
the block: `step` does not use it (log 17). -/

namespace Sys2Proof.Machine

/-- A decimal number `± digits / 10^places`, as `setres` and `setoff` take it (R88). -/
structure Decimal where
  negative : Bool
  digits : Nat
  places : Nat
  deriving DecidableEq, Repr

/-- `bits(f)`: the binary64 pattern of a decimal, correctly rounded (R88). -/
def Decimal.bits (f : Decimal) : DWord :=
  fpPattern f.negative (roundedBits (unitsPerOne * f.digits) (10 ^ f.places))

/-- One line of the notation: R87's lines, then R88's pseudo-instructions. A register name stands for its index. -/
inductive AsmLine where
  | wr (idx value : Nat)
  | rd (idx : Nat)
  | decomp
  | extbyte
  | extbit
  | push (b : Nat)
  | pop
  | srst
  | setid (v : Nat)
  | setdata (b0 b1 b2 b3 b4 b5 b6 b7 : Nat)
  | setdesc (start length : Nat)
  | setres (f : Decimal)
  | setoff (f : Decimal)
  | pushn (bs : List Nat)
  deriving DecidableEq, Repr

/-- The number is a byte. -/
def isByte (n : Nat) : Bool := n < 256

/-- The number is a u32. -/
def isWord (n : Nat) : Bool := n < 2 ^ 32

/-- The conditions R87 and R88 put on a line's numbers: indices and bytes in 0 to 255, values u32; `pushn` lists at
least one byte. -/
def AsmLine.wellFormed : AsmLine → Bool
  | .wr idx value => isByte idx && isWord value
  | .rd idx => isByte idx
  | .decomp => true
  | .extbyte => true
  | .extbit => true
  | .push b => isByte b
  | .pop => true
  | .srst => true
  | .setid v => isWord v
  | .setdata b0 b1 b2 b3 b4 b5 b6 b7 => [b0, b1, b2, b3, b4, b5, b6, b7].all isByte
  | .setdesc start length => isByte start && isByte length
  | .setres _ => true
  | .setoff _ => true
  | .pushn bs => !bs.isEmpty && bs.all isByte

/-- `MemWrite` to a named register. -/
def writeTo (r : Reg) (v : Word) : HostInput := .write r.idx v

/-- The write of CMD that issues a command (R22, R87). -/
def issue (i : Instr) : HostInput := writeTo .cmd (encode i)

/-- The four-byte u32 of R88's `setdata`: `b0 | b1<<8 | b2<<16 | b3<<24`. -/
def dataWord (b0 b1 b2 b3 : Nat) : Word :=
  BitVec.ofNat 32 (b0 ||| (b1 <<< 8) ||| (b2 <<< 16) ||| (b3 <<< 24))

/-- The host transactions of a line, in order (R87, R88). -/
def AsmLine.expand : AsmLine → List HostInput
  | .wr idx value => [.write (BitVec.ofNat 8 idx) (BitVec.ofNat 32 value)]
  | .rd idx => [.read (BitVec.ofNat 8 idx)]
  | .decomp => [issue .decomp]
  | .extbyte => [issue .extbyte]
  | .extbit => [issue .extbit]
  | .push b => [issue (.push (BitVec.ofNat 8 b))]
  | .pop => [issue .pop]
  | .srst => [issue .srst]
  | .setid v => [writeTo .id (BitVec.ofNat 32 v)]
  | .setdata b0 b1 b2 b3 b4 b5 b6 b7 =>
    [writeTo .dataLo (dataWord b0 b1 b2 b3), writeTo .dataHi (dataWord b4 b5 b6 b7)]
  | .setdesc start length => [writeTo .desc (BitVec.ofNat 32 (start ||| (length <<< 8)))]
  | .setres f => [writeTo .resLo (loHalf f.bits), writeTo .resHi (hiHalf f.bits)]
  | .setoff f => [writeTo .offLo (loHalf f.bits), writeTo .offHi (hiHalf f.bits)]
  | .pushn bs => bs.map fun b => issue (.push (BitVec.ofNat 8 b))

/-- The position of an SPN in the payload, the source's two variants (R83). -/
inductive Position where
  | bytePosition (start length : Nat)
  | bitPosition (start length : Nat)
  deriving DecidableEq, Repr

/-- What the block uses of the source's SpnDefinition; `id` and `name` are not conveyed (R83). -/
structure SpnDefinition where
  position : Position
  resolution : DWord
  offset : DWord
  deriving DecidableEq, Repr

/-- A start or a length that DESC cannot hold is replaced by 255 (R83). -/
def clampField (n : Nat) : Nat := min n 255

/-- The DESC value of a start and a length, clamped (R26, R83). -/
def descOf (start length : Nat) : Word :=
  BitVec.ofNat 32 (clampField start ||| (clampField length <<< 8))

/-- The writes of DESC for a position, and the command that goes with it (R83). -/
def Position.convey : Position → HostInput × Instr
  | .bytePosition start length => (writeTo .desc (descOf start length), .extbyte)
  | .bitPosition start length => (writeTo .desc (descOf start length), .extbit)

/-- The transactions by which the host has one SPN extracted from the payload in DATA (R83, R203). -/
def SpnDefinition.convey (d : SpnDefinition) : List HostInput :=
  [d.position.convey.1,
   writeTo .resLo (loHalf d.resolution), writeTo .resHi (hiHalf d.resolution),
   writeTo .offLo (loHalf d.offset), writeTo .offHi (hiHalf d.offset),
   issue d.position.convey.2]

end Sys2Proof.Machine
end

