-- ==== Sys2Proof/Safety.lean ====
section
/-! DEFINITION. The terms in which claims about J1939FE are stated: the state invariant (R40), who acts in a step and
which registers that may change (R21, R82), the result code a command must end with (R181, R190), the byte stream a
run accepts and delivers (R155), identifier composition (R104) and correct rounding (R126, R127). -/

namespace Sys2Proof.Machine

/-- What the rules say of every state after reset (R40, R29). -/
structure StateInv (s : State) : Prop where
  bufBound : s.buf.length ≤ Config.asmCap
  descHighZero : s.desc.toNat < 2 ^ 16
  statusHighZero : (hostRead s Reg.status.idx).toNat < 2 ^ 7
  errBound : s.err.toNat ≤ 5
  priorityBound : s.priority.toNat ≤ 7
  dataPageBound : s.dataPage.toNat ≤ 1
  pduFormatBound : s.pduFormat.toNat ≤ 255
  pduSpecificBound : s.pduSpecific.toNat ≤ 255
  sourceAddressBound : s.sourceAddress.toNat ≤ 255
  pgnBound : s.pgn.toNat ≤ 65535
  pgnIdentity : s.pgn = (s.pduFormat <<< 8) ||| s.pduSpecific

/-- The block's own state: the model's own fields set aside (logs 1 and 2). -/
def State.block (s : State) : State := { s with pending := [], returned := [] }

/-- The state reads as the reset table of R39 says: every index 0 but RES_HI, whose value makes RES 1.0 and OFF +0.0;
ERR, TRUNC, FRAME_RDY and FULL 0; the buffer empty. -/
structure ReadsAsReset (s : State) : Prop where
  registers : ∀ idx, hostRead s idx = if idx = Reg.resHi.idx then 0x3FF00000 else 0
  result : s.err = 0 ∧ s.trunc = false
  emptyBuffer : s.buf = [] ∧ frameReady s = false ∧ bufferIsFull Config.asmCap s = false
  scaling : resolution s = 0x3FF0000000000000 ∧ offset s = 0

/-- The command the next step runs, if it runs one. -/
def pendingCommand (s : State) : Option Instr :=
  match s.pending with
  | [] => none
  | t :: _ =>
    match commandOf t with
    | none => none
    | some w =>
      match decode w with
      | .ok i => some i
      | .error _ => none

/-- Who acts in a step. -/
inductive Actor where
  | idle
  | hostWrite (idx : RegIndex)
  | hostRead
  | reset
  | command (i : Instr)
  | illegal
  deriving DecidableEq, Repr

/-- Who acts for a given host input. -/
def actorOf : HostInput → Actor
  | .write idx v =>
    if idx = Reg.cmd.idx then
      match decode v with
      | .ok i => .command i
      | .error _ => .illegal
    else .hostWrite idx
  | .read _ => .hostRead
  | .reset => .reset

/-- Who acts in the next step. -/
def actor (s : State) : Actor :=
  match s.pending with
  | [] => .idle
  | t :: _ => actorOf t

/-- The registers whose read value an actor may change: R82's column "writes", R21's column "written by", and the
host's own writes of R62. STATUS and ASM_COUNT are live in `buf` (R23, R32). -/
def mayChange : Actor → Reg → Bool
  | .idle, _ => false
  | .hostRead, _ => false
  | .reset, _ => true
  | .hostWrite idx, r => r.access = .readWrite && r.idx = idx
  | .illegal, r => r = .status
  | .command .decomp, r =>
    r ∈ [Reg.status, .priority, .dataPage, .pduFormat, .pduSpecific, .sourceAddress, .pgn]
  | .command .extbyte, r => r ∈ [Reg.status, .rawLo, .rawHi, .scaledLo, .scaledHi]
  | .command .extbit, r => r ∈ [Reg.status, .rawLo, .rawHi, .scaledLo, .scaledHi]
  | .command (.push _), r => r ∈ [Reg.status, .asmCount]
  | .command .pop, r => r ∈ [Reg.status, .asmCount, .id, .dataLo, .dataHi]
  | .command .srst, _ => true

/-- The number of the result code a CMD write of `w` must leave in STATUS.ERR (R181), the first condition that
applies winning (R190). -/
def expectedCode (w : Word) (s : State) : Nat :=
  match decode w with
  | .error _ => 5
  | .ok .decomp => 0
  | .ok .srst => 0
  | .ok .extbyte =>
    if descStart s = 0 ∨ descLength s = 0 then 2 else if descStart s - 1 + descLength s > 8 then 1 else 0
  | .ok .extbit => if descStart s = 0 ∨ descLength s = 0 then 2 else 0
  | .ok (.push _) => if s.buf.length = Config.asmCap then 3 else 0
  | .ok .pop => if s.buf.length < 12 then 4 else 0

/-- SCALED is what the scaling rules give for a raw value with the RES and OFF of `s`: the pattern they fix, or some
NaN (R125, R128). -/
def ScaledFrom (s : State) (raw scaled : DWord) : Prop :=
  match scale raw (resolution s) (offset s) with
  | some p => scaled = p
  | none => isNan scaled = true

/-- What register `r'` holds after a write of `v` to register `r`, both of them readable and writable, if it held
`old` before (R62). -/
def heldAfter (r : Reg) (v : Word) (r' : Reg) (old : Word) : Word := if r' = r then v else old

/-- `compose(p, dp, pf, ps, sa)` (R104). -/
def compose (p dp pf ps sa : Nat) : Word :=
  BitVec.ofNat 32 ((p <<< 26) ||| (dp <<< 24) ||| (pf <<< 16) ||| (ps <<< 8) ||| sa)

/-- The twelve bytes a POP has put into ID and DATA, in stream order (R65). -/
def deliveredFrame (t : State) : List Byte :=
  [t.id.extractLsb' 24 8, t.id.extractLsb' 16 8, t.id.extractLsb' 8 8, t.id.extractLsb' 0 8] ++
    (List.range 8).map (payloadByte t)

/-- The byte a step from `s` to `t` accepted into the stream: that of a PUSH that ended OK (R155). -/
def acceptedBytes (s t : State) : List Byte :=
  match pendingCommand s with
  | some (.push b) => if t.err = 0 then [b] else []
  | _ => []

/-- The frame a step from `s` to `t` delivered: that of a POP that ended OK (R155). -/
def deliveredFrames (s t : State) : List (List Byte) :=
  match pendingCommand s with
  | some .pop => if t.err = 0 then [deliveredFrame t] else []
  | _ => []

/-- The bytes accepted and the frames delivered over `n` steps, each in order (R155). -/
def streamOf : Nat → State → List Byte × List (List Byte)
  | 0, _ => ([], [])
  | n + 1, s =>
    match step s with
    | .next t => (acceptedBytes s t ++ (streamOf n t).1, deliveredFrames s t ++ (streamOf n t).2)
    | .fault _ => ([], [])
    | .refused _ => ([], [])

/-- An input that empties the buffer and so ends the stream: SRST or the reset input (R33, R158). -/
def endsStream (t : HostInput) : Bool := actorOf t = .reset || actorOf t = .command .srst

/-- The distance of `u` units from the exact value `n / d`, times `d`. -/
def unitsGap (n d u : Nat) : Nat := ((n : Int) - (d : Int) * (u : Int)).natAbs

/-- The finite value `u` of the pattern `p` is nearest to `n / d` units among all finite binary64 values, and where
another is as near, the significand of `p` is even (R126, R127). -/
def NearestEvenUnits (n d : Nat) (p : DWord) (u : Nat) : Prop :=
  ∀ (q : DWord) (g : Bool) (v : Nat), fpValue q = .finite g v →
    unitsGap n d u ≤ unitsGap n d v ∧ (v ≠ u → unitsGap n d u = unitsGap n d v → fractionField p % 2 = 0)

/-- From here on a magnitude rounds to infinity: the largest finite value and half its last place, in units (R127). -/
def overflowUnits : Nat := (2 ^ 54 - 1) * 2 ^ 2044

/-- The pattern `p` is the correctly rounded binary64 of sign `negative` and magnitude `n / d` units (R127). -/
def RoundsTo (n d : Nat) (negative : Bool) (p : DWord) : Prop :=
  (n < d * overflowUnits → ∃ u, fpValue p = .finite negative u ∧ NearestEvenUnits n d p u) ∧
  (d * overflowUnits ≤ n → fpValue p = .infinity negative)

end Sys2Proof.Machine
end

