-- ==== Sys2Proof/Certificates/Slice0/Obligations.lean ====
section
/-! DEFINITION. The statements for the provers, in the order of OBLIGATIONS.json. Each docstring names the rule of spec/
it formalises. -/

open Sys2Proof Sys2Proof.Machine

/-- R39, the reset table: it holds of the reset state, and of the state after the reset input or SRST, whatever the
state before. -/
def Obligations.ResetStateReadsAsTheTable : Prop :=
  ReadsAsReset State.reset ∧
  ∀ (s : State) (rest : List HostInput), s.pending = .reset :: rest ∨ s.pending = .write 0x00 0x00000006 :: rest →
    ∃ t, step s = .next t ∧ ReadsAsReset t

/-- R40 (its state invariant) at reset. -/
def Obligations.ResetMeetsTheStateInvariant : Prop := StateInv State.reset

/-- R40: every step, whatever the host's next input, keeps the state invariant. -/
def Obligations.EveryStepKeepsTheStateInvariant : Prop :=
  ∀ s t, StateInv s → step s = .next t → StateInv t

/-- R40, last clause, one step at a time: TRUNC reads 1 after a step only if the step was an EXTBIT that ended OK and
whose field ran past bit 63 of D, or if it was 1 before and the step was no extract that ended OK. -/
def Obligations.TruncIsSetOnlyByAnOverrunningExtbit : Prop :=
  ∀ s t, step s = .next t → t.trunc = true →
    (pendingCommand s = some .extbit ∧ t.err = 0 ∧ 64 < descStart s - 1 + descLength s) ∨
    (s.trunc = true ∧ ¬ ((pendingCommand s = some .extbyte ∨ pendingCommand s = some .extbit) ∧ t.err = 0))

/-- R63: what a host read returns, class by class; it changes no state of the block, the value goes to the host (its
place in `returned` is the model's, log 2), and two reads with nothing between them return the same value. -/
def Obligations.HostReadReturnsTheRegisterMap : Prop :=
  ∀ (s : State) (idx : RegIndex) (rest : List HostInput), s.pending = .read idx :: rest →
    step s = .next { s with pending := rest, returned := s.returned ++ [hostRead s idx] } ∧
    (idx = 0x00 → hostRead s idx = 0) ∧
    (idx = 0x01 → (hostRead s idx).toNat =
      s.err.toNat + (if s.trunc then 16 else 0) + (if 12 ≤ s.buf.length then 32 else 0) +
        (if s.buf.length = Config.asmCap then 64 else 0)) ∧
    (idx = 0x02 → hostRead s idx = s.id) ∧ (idx = 0x03 → hostRead s idx = s.dataLo) ∧
    (idx = 0x04 → hostRead s idx = s.dataHi) ∧ (idx = 0x05 → hostRead s idx = s.desc) ∧
    (idx = 0x06 → hostRead s idx = s.resLo) ∧ (idx = 0x07 → hostRead s idx = s.resHi) ∧
    (idx = 0x08 → hostRead s idx = s.offLo) ∧ (idx = 0x09 → hostRead s idx = s.offHi) ∧
    (idx = 0x0A → hostRead s idx = s.priority) ∧ (idx = 0x0B → hostRead s idx = s.dataPage) ∧
    (idx = 0x0C → hostRead s idx = s.pduFormat) ∧ (idx = 0x0D → hostRead s idx = s.pduSpecific) ∧
    (idx = 0x0E → hostRead s idx = s.sourceAddress) ∧ (idx = 0x0F → hostRead s idx = s.pgn) ∧
    (idx = 0x10 → hostRead s idx = s.rawLo) ∧ (idx = 0x11 → hostRead s idx = s.rawHi) ∧
    (idx = 0x12 → hostRead s idx = s.scaledLo) ∧ (idx = 0x13 → hostRead s idx = s.scaledHi) ∧
    (idx = 0x14 → hostRead s idx = BitVec.ofNat 32 s.buf.length) ∧
    (0x14 < idx.toNat → hostRead s idx = 0) ∧
    (∀ rest', rest = .read idx :: rest' →
      ∃ v, Host.Core.run Sys2Proof.core 2 s = .next { s with pending := rest', returned := s.returned ++ [v, v] })

/-- R25: payload byte `data[i]` is a byte of DATA_LO for i from 0 to 3 and of DATA_HI for 4 to 7, as the host reads
them, and D is the payload read as a little-endian u64. -/
def Obligations.PayloadBytesAreSlicesOfData : Prop :=
  ∀ s : State,
    (∀ i, i < 4 → (payloadByte s i).toNat = (hostRead s 0x03).toNat / 2 ^ (8 * i) % 2 ^ 8) ∧
    (∀ i, 4 ≤ i → i < 8 → (payloadByte s i).toNat = (hostRead s 0x04).toNat / 2 ^ (8 * (i - 4)) % 2 ^ 8) ∧
    (payload s).toNat = (hostRead s 0x04).toNat * 2 ^ 32 + (hostRead s 0x03).toNat ∧
    (payload s).toNat = ∑ i ∈ Finset.range 8, (payloadByte s i).toNat * 2 ^ (8 * i)

/-- R26: a host write of DESC sets START from bits 7:0 and LENGTH from bits 15:8 of any value, valid or not; bits 31:16
are ignored and read 0. -/
def Obligations.DescTakesStartAndLength : Prop :=
  ∀ (s : State) (v : Word) (rest : List HostInput), s.pending = .write 0x05 v :: rest →
    ∃ t, step s = .next t ∧ t = { s with pending := rest, desc := t.desc } ∧
      descStart t = v.toNat % 2 ^ 8 ∧ descLength t = v.toNat / 2 ^ 8 % 2 ^ 8 ∧
      (hostRead t 0x05).toNat = v.toNat % 2 ^ 16

/-- R62: a host write by the class of its register. CMD executes the command the word encodes and stores nothing; a
readable and writable register takes all 32 bits, DESC its low sixteen; nothing else changes: every other register
reads as before (STATUS included), and the buffer and the result code stay. -/
def Obligations.HostWriteActsByRegisterClass : Prop :=
  ∀ (s : State) (idx : RegIndex) (v : Word) (rest : List HostInput), s.pending = .write idx v :: rest →
    (idx = 0x00 →
      (∀ i, decode v = .ok i → step s = exec i { s with pending := rest }) ∧
      (∀ r, decode v = .error r → step s = .next { s with pending := rest, err := 5 })) ∧
    (idx ≠ 0x00 →
      ∃ t, step s = .next t ∧ t.pending = rest ∧ t.returned = s.returned ∧
        t.buf = s.buf ∧ t.err = s.err ∧ t.trunc = s.trunc ∧
        ∀ j, hostRead t j =
          if j = idx ∧ idx.toNat ∈ [2, 3, 4, 6, 7, 8, 9] then v
          else if j = idx ∧ idx = 0x05 then v &&& 0x0000FFFF
          else hostRead s j)

/-- R64: an unmapped index ignores writes, reads 0, and neither reports an error nor changes STATUS. -/
def Obligations.UnmappedIndicesAreInert : Prop :=
  ∀ (s : State) (idx : RegIndex) (rest : List HostInput), 0x15 ≤ idx.toNat →
    (∀ v, s.pending = .write idx v :: rest → step s = .next { s with pending := rest }) ∧
    (s.pending = .read idx :: rest → step s = .next { s with pending := rest, returned := s.returned ++ [0] })

/-- R32: ASM_COUNT is the length of the buffer, exactly, because ASM_CAP is below 2^32; a host write of it is
ignored. -/
def Obligations.AsmCountIsTheBufferLength : Prop :=
  Config.asmCap < 2 ^ 32 ∧
  (∀ s : State, s.buf.length ≤ Config.asmCap → (hostRead s 0x14).toNat = s.buf.length) ∧
  (∀ (s : State) v rest, s.pending = .write 0x14 v :: rest → step s = .next { s with pending := rest })

/-- The decoder and the encoder agree in both directions: a word decodes to a command exactly when it is the word of
that command (R84, R85). -/
def Obligations.DecodeAndEncodeAgree : Prop :=
  ∀ (w : Word) (i : Instr), decode w = .ok i ↔ (i.wellFormed = true ∧ encode i = w)

/-- R84: a word selects a command exactly when `w & mask = match` for the command's row of the map, with PUSH's byte in
ARG, and the six pairs are disjoint. -/
def Obligations.WordsSelectCommandsByMatchAndMask : Prop :=
  (∀ w : Word,
    (decode w = .ok .decomp ↔ w &&& 0xFFFFFFFF = 0x00000001) ∧
    (decode w = .ok .extbyte ↔ w &&& 0xFFFFFFFF = 0x00000002) ∧
    (decode w = .ok .extbit ↔ w &&& 0xFFFFFFFF = 0x00000003) ∧
    ((∃ b, decode w = .ok (.push b)) ↔ w &&& 0xFFFF00FF = 0x00000004) ∧
    (decode w = .ok .pop ↔ w &&& 0xFFFFFFFF = 0x00000005) ∧
    (decode w = .ok .srst ↔ w &&& 0xFFFFFFFF = 0x00000006)) ∧
  (∀ (w : Word) (b : Byte), decode w = .ok (.push b) → b.toNat = w.toNat / 2 ^ 8 % 2 ^ 8) ∧
  opcodeRows.map (fun r => (r.mnemonic, r.pattern, r.mask)) =
    [("DECOMP", 0x00000001, 0xFFFFFFFF), ("EXTBYTE", 0x00000002, 0xFFFFFFFF), ("EXTBIT", 0x00000003, 0xFFFFFFFF),
     ("PUSH", 0x00000004, 0xFFFF00FF), ("POP", 0x00000005, 0xFFFFFFFF), ("SRST", 0x00000006, 0xFFFFFFFF)] ∧
  (∀ (w : Word), ∀ r₁ ∈ opcodeRows, ∀ r₂ ∈ opcodeRows,
    w &&& r₁.mask = r₁.pattern → w &&& r₂.mask = r₂.pattern → r₁ = r₂)

/-- R85 and R171: the words that match no row are those R85 lists by OP, ZERO and ARG, and writing one to CMD sets
STATUS.ERR to 5 and changes nothing else. -/
def Obligations.IllegalWordsOnlySetErr : Prop :=
  (∀ w : Word, (∀ r ∈ opcodeRows, w &&& r.mask ≠ r.pattern) ↔
    (w.toNat % 2 ^ 8 = 0 ∨ 7 ≤ w.toNat % 2 ^ 8 ∨ w.toNat / 2 ^ 16 ≠ 0 ∨
      (w.toNat / 2 ^ 8 % 2 ^ 8 ≠ 0 ∧ w.toNat % 2 ^ 8 ∈ [1, 2, 3, 5, 6]))) ∧
  (∀ (s : State) (w : Word) (rest : List HostInput), s.pending = .write 0x00 w :: rest →
    (∀ r ∈ opcodeRows, w &&& r.mask ≠ r.pattern) → step s = .next { s with pending := rest, err := 5 })

/-- A few words of R84, bit by bit. -/
def Obligations.SampleWordsDecodeAsTheTableSays : Prop :=
  decode 0b00000000000000000000000000000001 = .ok .decomp ∧
  decode 0b00000000000000000000000000000010 = .ok .extbyte ∧
  decode 0b00000000000000000000000000000011 = .ok .extbit ∧
  decode 0b00000000000000001010010100000100 = .ok (.push 0b10100101) ∧
  decode 0b00000000000000000000000000000101 = .ok .pop ∧
  decode 0b00000000000000000000000000000110 = .ok .srst ∧
  decode 0b00000000000000000000000100000101 = .error .argFieldSet ∧
  decode 0b00000000000000010000000000000100 = .error .zeroFieldSet ∧
  decode 0 = .error .noSuchOp

/-- A write of CMD whose word decodes to a command runs exactly that command, on the state with this one input taken
(R22, R80). -/
def Obligations.StepRunsTheDecodedCommand : Prop :=
  ∀ (s : State) (w : Word) (i : Instr) (rest : List HostInput),
    s.pending = .write 0x00 w :: rest → decode w = .ok i → i.wellFormed = true →
      step s = exec i { s with pending := rest }

/-- R5: with no host input the block does nothing; that the model's step then answers the same state is the model's
choice (log 3). -/
def Obligations.BlockIsIdleWithoutInput : Prop :=
  ∀ s : State, s.pending = [] → step s = .next s

/-- R61, R188: every host transaction completes, exactly one at a time, in every state. -/
def Obligations.EveryInputCompletes : Prop :=
  (∀ s : State, ∃ t, step s = .next t ∧ t.pending = s.pending.tail) ∧
  (∀ s : State, ∃ t, Host.Core.run Sys2Proof.core s.pending.length s = .next t ∧ t.pending = [])

/-- R72: a transaction sees none of the effects of a later one. -/
def Obligations.TransactionsDoNotSeeLaterOnes : Prop :=
  ∀ (s t : State) (x : HostInput) (rest later : List HostInput),
    step { s with pending := x :: rest } = .next t →
      step { s with pending := x :: later } = .next { t with pending := later }

/-- R21 and R82: a register reads differently after a step only if the one who acted is among its writers. -/
def Obligations.RegistersChangeOnlyByTheirWriters : Prop :=
  ∀ (s t : State) (r : Reg), step s = .next t → mayChange (actor s) r = false →
    hostRead t r.idx = hostRead s r.idx

/-- R30, R31 for RAW and SCALED, R23 and R130 for TRUNC: they change only by an EXTBYTE or EXTBIT that ends with OK, and by reset. -/
def Obligations.ResultsAreWrittenOnlyBySuccessfulExtracts : Prop :=
  ∀ (s t : State), step s = .next t →
    rawValue t ≠ rawValue s ∨ scaledValue t ≠ scaledValue s ∨ t.trunc ≠ s.trunc →
      ((actor s = .command .extbyte ∨ actor s = .command .extbit) ∧ t.err = 0) ∨
      actor s = .command .srst ∨ actor s = .reset

/-- R33: the buffer's contents change only by PUSH, POP, SRST and reset. -/
def Obligations.BufferChangesOnlyByPushPopOrReset : Prop :=
  ∀ (s t : State), step s = .next t →
    (∀ b, actor s ≠ .command (.push b)) → actor s ≠ .command .pop → actor s ≠ .command .srst → actor s ≠ .reset →
      t.buf = s.buf

/-- R35: no command is conditional on ERR or TRUNC. Run with other flags, a command reaches the same state, except
that a TRUNC it does not write stays as it was. -/
def Obligations.NoCommandReadsAFlag : Prop :=
  ∀ (i : Instr) (s t : State) (e : BitVec 4) (f : Bool), exec i s = .next t →
    ∃ f', exec i { s with err := e, trunc := f } = .next { t with trunc := f' } ∧
      (f' = t.trunc ∨ (t.trunc = s.trunc ∧ f' = f))

/-- R37: the contents of the buffer are hidden. Only a POP that finds a whole frame can tell two states apart that
differ in buffered bytes but not in their number. -/
def Obligations.BufferedBytesAreHiddenUntilPop : Prop :=
  ∀ (s t : State) (c : List Byte), c.length = s.buf.length →
    ¬ (pendingCommand s = some .pop ∧ 12 ≤ s.buf.length) → step s = .next t →
      ∃ c', c'.length = t.buf.length ∧ step { s with buf := c } = .next { t with buf := c' }

/-- R102 with R100: DECOMP's word, and the whole state it leaves: the six header fields of ID, ERR 0, and everything
else as before. -/
def Obligations.DecompWritesTheHeaderOfId : Prop :=
  decode 0x00000001 = .ok .decomp ∧
  ∀ s : State, exec .decomp s = .next { s with
    priority := BitVec.ofNat 32 (s.id.toNat / 2 ^ 26 % 2 ^ 3)
    dataPage := BitVec.ofNat 32 (s.id.toNat / 2 ^ 24 % 2)
    pduFormat := BitVec.ofNat 32 (s.id.toNat / 2 ^ 16 % 2 ^ 8)
    pduSpecific := BitVec.ofNat 32 (s.id.toNat / 2 ^ 8 % 2 ^ 8)
    sourceAddress := BitVec.ofNat 32 (s.id.toNat % 2 ^ 8)
    pgn := BitVec.ofNat 32 (s.id.toNat / 2 ^ 16 % 2 ^ 8 * 2 ^ 8 + s.id.toNat / 2 ^ 8 % 2 ^ 8)
    err := 0 }

/-- R103: bits 31, 30, 29 and 25 of ID have no effect on any output of DECOMP. -/
def Obligations.DecompIgnoresTheUnusedIdBits : Prop :=
  ∀ (s : State) (id' : Word), id' &&& 0x1DFFFFFF = s.id &&& 0x1DFFFFFF →
    ∃ t, exec .decomp s = .next t ∧ t.err = 0 ∧ exec .decomp { s with id := id' } = .next { t with id := id' }

/-- R104: decomposing a composed identifier gives the fields back, and composing the fields of any ID gives it with
the unused bits cleared. -/
def Obligations.HeaderRoundTrip : Prop :=
  (∀ (s : State) (p dp pf ps sa : Nat), p < 8 → dp < 2 → pf < 256 → ps < 256 → sa < 256 →
    s.id = compose p dp pf ps sa →
      ∃ t, exec .decomp s = .next t ∧ t.priority.toNat = p ∧ t.dataPage.toNat = dp ∧ t.pduFormat.toNat = pf ∧
        t.pduSpecific.toNat = ps ∧ t.sourceAddress.toNat = sa ∧ t.pgn.toNat = pf * 256 + ps) ∧
  (∀ s : State, ∃ t, exec .decomp s = .next t ∧
    compose t.priority.toNat t.dataPage.toNat t.pduFormat.toNat t.pduSpecific.toNat t.sourceAddress.toNat =
      s.id &&& 0x1DFFFFFF)

/-- R121: both extracts reject a descriptor with START 0 or LENGTH 0, before anything else, and change only ERR. -/
def Obligations.InvalidDescriptorsAreRejectedFirst : Prop :=
  ∀ s : State, (descStart s = 0 ∨ descLength s = 0) →
    exec .extbyte s = .next { s with err := 2 } ∧ exec .extbit s = .next { s with err := 2 }

/-- R122 (word, errors, success), with its own closed form (the sentence it marks as derived from its pseudocode and
R25) and, where scaling makes a NaN, R128's "SCALED is a NaN": InvalidDescriptor for START 0 or LENGTH 0; DataTooShort when the field passes the
payload; otherwise RAW is the little-endian sum of the field's bytes, equal to the slice of D, SCALED is what scaling
gives for it, TRUNC and ERR are 0, and everything else is as before. -/
def Obligations.ExtbyteGathersBytesLittleEndian : Prop :=
  decode 0x00000002 = .ok .extbyte ∧
  (∀ s : State, descStart s = 0 ∨ descLength s = 0 → exec .extbyte s = .next { s with err := 2 }) ∧
  ∀ s : State, descStart s ≠ 0 → descLength s ≠ 0 →
    (8 < descStart s - 1 + descLength s → exec .extbyte s = .next { s with err := 1 }) ∧
    (descStart s - 1 + descLength s ≤ 8 →
      ∃ t, exec .extbyte s = .next t ∧
        (rawValue t).toNat =
          ∑ k ∈ Finset.range (descLength s), (payloadByte s (descStart s - 1 + k)).toNat * 256 ^ k ∧
        (rawValue t).toNat = (payload s).toNat / 2 ^ (8 * (descStart s - 1)) % 2 ^ (8 * descLength s) ∧
        ScaledFrom s (rawValue t) (scaledValue t) ∧
        t = { s with
          rawLo := t.rawLo, rawHi := t.rawHi, scaledLo := t.scaledLo, scaledHi := t.scaledHi
          trunc := false, err := 0 })

/-- R124 (the closed form of R123's loop): EXTBIT's word; with a valid descriptor it always ends OK; RAW is the slice of D of the
bits there are, zero when the field starts past the payload; TRUNC says that the field ran past it; SCALED is what
scaling gives for the value gathered, and everything else is as before. -/
def Obligations.ExtbitGathersTheBitsThereAre : Prop :=
  decode 0x00000003 = .ok .extbit ∧
  ∀ s : State, descStart s ≠ 0 → descLength s ≠ 0 →
    ∃ t, exec .extbit s = .next t ∧
      (rawValue t).toNat =
        (if descStart s - 1 < 64 then
          (payload s).toNat / 2 ^ (descStart s - 1) % 2 ^ min (descLength s) (64 - (descStart s - 1))
        else 0) ∧
      ScaledFrom s (rawValue t) (scaledValue t) ∧
      t = { s with
        rawLo := t.rawLo, rawHi := t.rawHi, scaledLo := t.scaledLo, scaledHi := t.scaledHi
        trunc := decide (64 - (descStart s - 1) < descLength s), err := 0 }

/-- R124 (f): on whole bytes inside the payload the two extracts give the same RAW. -/
def Obligations.ByteAlignedBitFieldsAreByteFields : Prop :=
  ∀ (s t : State) (first count : Nat), first + count ≤ 8 → 0 < count →
    s.dataLo = t.dataLo → s.dataHi = t.dataHi →
    descStart s = first + 1 → descLength s = count → descStart t = 8 * first + 1 → descLength t = 8 * count →
      ∃ s' t', exec .extbyte s = .next s' ∧ exec .extbit t = .next t' ∧ rawValue s' = rawValue t' ∧ t'.trunc = false

/-- R132: what an extract leaves in RAW, SCALED, TRUNC and ERR is a function of the command and its operands, except
that a failed one carries RAW, SCALED and TRUNC over; so issuing it again changes nothing. That this covers the pattern
of a NaN too, which R128 and U3 leave open, is the model's reading of R132 (log 7). -/
def Obligations.ExtractsArePureInTheirOperands : Prop :=
  ∀ (s₁ s₂ : State) (i : Instr), (i = .extbyte ∨ i = .extbit) →
    s₁.dataLo = s₂.dataLo → s₁.dataHi = s₂.dataHi → s₁.desc = s₂.desc → s₁.resLo = s₂.resLo →
    s₁.resHi = s₂.resHi → s₁.offLo = s₂.offLo → s₁.offHi = s₂.offHi →
      ∃ t₁ t₂, exec i s₁ = .next t₁ ∧ exec i s₂ = .next t₂ ∧ t₁.err = t₂.err ∧
        (t₁.err = 0 → rawValue t₁ = rawValue t₂ ∧ t₁.trunc = t₂.trunc ∧
          scaledValue t₁ = scaledValue t₂) ∧
        (t₁.err ≠ 0 → t₁ = { s₁ with err := t₁.err } ∧ t₂ = { s₂ with err := t₂.err }) ∧
        exec i t₁ = .next t₁

/-- R133 with R83: a start or a length too large for DESC may be replaced by 255 without changing what an extract
gives: EXTBYTE's DataTooShort, EXTBIT's RAW and TRUNC. -/
def Obligations.ClampedDescriptorsGiveTheSameOutcome : Prop :=
  ∀ (lo hi : Word) (start length : Nat), 0 < start → 0 < length →
    (8 < start - 1 + length ↔ 8 < clampField start - 1 + clampField length) ∧
    (bitField lo hi start length).1 = (bitField lo hi (clampField start) (clampField length)).1 ∧
    truncatedFlag (bitField lo hi start length).2 =
      truncatedFlag (bitField lo hi (clampField start) (clampField length)).2

/-- R126: the conversion is exact when the value has at most 53 significant bits, never overflows, reaches 2^64 for
every value from 2^64 - 2^10 on, and is otherwise the nearest binary64, ties to even. -/
def Obligations.ConversionIsNearestEvenAndExactWhenItCanBe : Prop :=
  (∀ (n : DWord) (m k : Nat), m < 2 ^ 53 → n.toNat = m * 2 ^ k →
    fpValue (cvtU64 n) = .finite false (unitsPerOne * n.toNat)) ∧
  (∀ n : DWord, 2 ^ 64 - 2 ^ 10 ≤ n.toNat → cvtU64 n = 0x43F0000000000000) ∧
  cvtU64 0 = 0 ∧ cvtU64 (BitVec.ofNat 64 (2 ^ 53 + 1)) = 0x4340000000000000 ∧
  (∀ n : DWord, ∃ u, fpValue (cvtU64 n) = .finite false u ∧ NearestEvenUnits (unitsPerOne * n.toNat) 1 (cvtU64 n) u)

/-- R127: the product of finite values is the correctly rounded one, with the exclusive or of the signs; past the
largest finite value it is an infinity of that sign. -/
def Obligations.ProductsAreCorrectlyRounded : Prop :=
  ∀ (a b : DWord) (x y : Bool) (m n : Nat), fpValue a = .finite x m → fpValue b = .finite y n →
    ∃ p, fmul a b = some p ∧ signBit p = (x ^^ y) ∧ RoundsTo (m * n) unitsPerOne (x ^^ y) p

/-- R127: the sum of finite values is the correctly rounded one, with the sign of the exact sum; past the largest
finite value it is an infinity of that sign. -/
def Obligations.SumsAreCorrectlyRounded : Prop :=
  ∀ (a b : DWord) (x y : Bool) (m n : Nat), fpValue a = .finite x m → fpValue b = .finite y n →
    signedUnits x m + signedUnits y n ≠ 0 →
      ∃ p, fadd a b = some p ∧ signBit p = decide (signedUnits x m + signedUnits y n < 0) ∧
        RoundsTo (signedUnits x m + signedUnits y n).natAbs 1 (signBit p) p

/-- R128, the table of special values, row by row, and the operands that are infinite without making a NaN: an infinity
times a raw value above 0, an infinite product plus a finite OFF or an infinity of its sign, and a finite product, zero
or not, plus an infinite OFF. -/
def Obligations.SpecialValuesOfScaling : Prop :=
  (∀ raw res off : DWord, (isNan res = true ∨ isNan off = true) → scale raw res off = none) ∧
  (∀ (res off : DWord) (g : Bool), fpValue res = .infinity g → scale 0 res off = none) ∧
  (∀ (raw res off product : DWord) (g : Bool), fmul (cvtU64 raw) res = some product →
    fpValue product = .infinity g → fpValue off = .infinity (!g) → scale raw res off = none) ∧
  (∀ (raw off : DWord) (y : Bool) (n : Nat), raw ≠ 0 → fpValue off = .finite y n →
    scale raw 0x7FF0000000000000 off = some 0x7FF0000000000000 ∧
    scale raw 0xFFF0000000000000 off = some 0xFFF0000000000000) ∧
  (∀ (raw res : DWord) (g : Bool), raw ≠ 0 → fpValue res = .infinity g →
    fmul (cvtU64 raw) res = some res ∧ scale raw res res = some res) ∧
  (∀ (p off : DWord) (g y : Bool) (n : Nat), fpValue p = .infinity g → fpValue off = .finite y n →
    fadd p off = some p) ∧
  (∀ (p off : DWord) (g : Bool), fpValue p = .infinity g → fpValue off = .infinity g → fadd p off = some p) ∧
  (∀ (p off : DWord) (x g : Bool) (m : Nat), fpValue p = .finite x m → fpValue off = .infinity g →
    fadd p off = some off) ∧
  (∀ (res : DWord) (x : Bool) (m : Nat), fpValue res = .finite x m →
    fmul (cvtU64 0) res = some (if x then 0x8000000000000000 else 0)) ∧
  (fadd 0 0 = some 0 ∧ fadd 0 0x8000000000000000 = some 0 ∧ fadd 0x8000000000000000 0 = some 0 ∧
    fadd 0x8000000000000000 0x8000000000000000 = some 0x8000000000000000) ∧
  (∀ (off : DWord) (y : Bool) (n : Nat), fpValue off = .finite y n → n ≠ 0 →
    fadd 0 off = some off ∧ fadd 0x8000000000000000 off = some off) ∧
  (∀ (p off : DWord) (x y : Bool) (m n : Nat), fpValue p = .finite x m → fpValue off = .finite y n → x ≠ y →
    signedUnits x m + signedUnits y n = 0 → fadd p off = some 0)

/-- U3: the free NaN pattern is a NaN for every draw, and every NaN pattern is reached by some draw. -/
def Obligations.FreeNanPatternsAreExactlyTheNans : Prop :=
  ∀ p : DWord, isNan p = true ↔ ∃ draw, nanPattern draw = p

/-- R151: PUSH's word; it appends its byte and ends OK, or at capacity refuses it with BufferFull; nothing else
changes. -/
def Obligations.PushAppendsOrRefusesTheByte : Prop :=
  ∀ (s : State) (b : Byte),
    decode (0x00000004 ||| (b.zeroExtend 32 <<< 8)) = .ok (.push b) ∧
    (s.buf.length ≠ Config.asmCap → exec (.push b) s = .next { s with buf := s.buf ++ [b], err := 0 }) ∧
    (s.buf.length = Config.asmCap → exec (.push b) s = .next { s with err := 3 })

/-- R152 with R65: POP's word; with twelve bytes buffered ID is the first four big-endian, data[i] the byte 4 + i,
the twelve leave the buffer, ERR is 0 and everything else is as before; with fewer, NoFrame and nothing else. -/
def Obligations.PopDeliversTheOldestFrame : Prop :=
  decode 0x00000005 = .ok .pop ∧
  (∀ s : State, s.buf.length < 12 → exec .pop s = .next { s with err := 4 }) ∧
  (∀ (s : State) (f rest : List Byte), f.length = 12 → s.buf = f ++ rest →
    ∃ t, exec .pop s = .next t ∧
      t.id.toNat = f[0]!.toNat * 2 ^ 24 + f[1]!.toNat * 2 ^ 16 + f[2]!.toNat * 2 ^ 8 + f[3]!.toNat ∧
      (∀ i, i < 8 → payloadByte t i = f[4 + i]!) ∧
      t = { s with id := t.id, dataLo := t.dataLo, dataHi := t.dataHi, buf := rest, err := 0 })

/-- R155: over any run from an empty buffer in which nothing resets the block, whatever else the host does in between
and however it groups its pushes, the frames delivered are the accepted bytes cut in twelves, in order, and the buffer
holds what is left. -/
def Obligations.FramesDoNotDependOnChunking : Prop :=
  ∀ (n : Nat) (s t : State), s.buf = [] → (∀ x ∈ s.pending.take n, endsStream x = false) →
    Host.Core.run Sys2Proof.core n s = .next t →
      (∀ j frame, (streamOf n s).2[j]? = some frame → frame = ((streamOf n s).1.drop (12 * j)).take 12 ∧ frame.length = 12) ∧
      t.buf = (streamOf n s).1.drop (12 * (streamOf n s).2.length)

/-- R156: a full buffer holds a whole frame, so POP makes room and the byte refused can then be pushed; in every state
within the bound PUSH or POP can succeed. -/
def Obligations.FullBufferAlwaysMakesRoom : Prop :=
  (∀ (s : State) (b : Byte), s.buf.length = Config.asmCap →
    ∃ t u, exec .pop s = .next t ∧ t.err = 0 ∧ exec (.push b) t = .next u ∧ u.err = 0 ∧
      u.buf = s.buf.drop 12 ++ [b]) ∧
  (∀ (s : State) (b : Byte),
    (∃ t, exec (.push b) s = .next t ∧ t.err = 0) ∨ (∃ t, exec .pop s = .next t ∧ t.err = 0))

/-- R170: SRST's word, and the whole state it leaves; the model's own fields (the last two) stay (log 4). -/
def Obligations.SrstResetsTheBlock : Prop :=
  decode 0x00000006 = .ok .srst ∧
  ∀ s : State, exec .srst s = .next {
    id := 0, dataLo := 0, dataHi := 0, desc := 0, resLo := 0, resHi := 0x3FF00000, offLo := 0, offHi := 0
    priority := 0, dataPage := 0, pduFormat := 0, pduSpecific := 0, sourceAddress := 0, pgn := 0
    rawLo := 0, rawHi := 0, scaledLo := 0, scaledHi := 0, err := 0, trunc := false, buf := []
    pending := s.pending, returned := s.returned }

/-- R200 and R201: the reset input and SRST have the same effect, and nothing of the block survives either. -/
def Obligations.BothResetsLeaveTheResetState : Prop :=
  ∀ (s : State) (rest : List HostInput), s.pending = .reset :: rest ∨ s.pending = .write 0x00 0x00000006 :: rest →
    ∃ t, step s = .next t ∧ t.block = State.reset.block ∧ t.pending = rest ∧ t.returned = s.returned

/-- R181 and R190: every write of CMD ends with exactly the code the list gives, the first condition that applies
winning, and never with a code above 5. -/
def Obligations.EveryCommandEndsWithItsResultCode : Prop :=
  ∀ (s : State) (w : Word) (rest : List HostInput), s.pending = .write 0x00 w :: rest →
    ∃ t, step s = .next t ∧ t.err.toNat = expectedCode w s ∧ t.err.toNat ≤ 5

/-- R180, R191: a command that ends with a code other than OK has changed nothing but STATUS.ERR. -/
def Obligations.FailedCommandsChangeOnlyErr : Prop :=
  ∀ (s t : State) (w : Word) (rest : List HostInput), s.pending = .write 0x00 w :: rest →
    step s = .next t → t.err ≠ 0 → t = { s with pending := rest, err := t.err }

/-- R192: a sequence of commands that all fail leaves the state as before the first of them, apart from STATUS.ERR. -/
def Obligations.FailingSequencesLeaveOnlyTheLastCode : Prop :=
  ∀ (ws : List Word) (s t : State), s.pending = ws.map (HostInput.write 0x00) →
    (∀ k < ws.length, ∀ u, Host.Core.run Sys2Proof.core (k + 1) s = .next u → u.err ≠ 0) →
    Host.Core.run Sys2Proof.core ws.length s = .next t → t = { s with pending := [], err := t.err }

/-- R207: an extract issued between the two writes of a pair uses the new half and the old half together, with no
error: for each half of RES, of OFF and of the payload, and for both extracts. -/
def Obligations.HalfWrittenPairsAreUsedAsTheyStand : Prop :=
  ∀ (s : State) (r : Reg) (v : Word) (i : Instr) (rest : List HostInput),
    r ∈ [Reg.dataLo, .dataHi, .resLo, .resHi, .offLo, .offHi] → (i = .extbyte ∨ i = .extbit) →
    s.pending = .write r.idx v :: .write 0x00 (encode i) :: rest → descStart s ≠ 0 → descLength s ≠ 0 →
    (i = .extbyte → descStart s - 1 + descLength s ≤ 8) →
      ∃ (t : State) (d res off : DWord), Host.Core.run Sys2Proof.core 2 s = .next t ∧ t.err = 0 ∧
        d = heldAfter r v .dataHi s.dataHi ++ heldAfter r v .dataLo s.dataLo ∧
        res = heldAfter r v .resHi s.resHi ++ heldAfter r v .resLo s.resLo ∧
        off = heldAfter r v .offHi s.offHi ++ heldAfter r v .offLo s.offLo ∧
        (i = .extbyte →
          (rawValue t).toNat = d.toNat / 2 ^ (8 * (descStart s - 1)) % 2 ^ (8 * descLength s)) ∧
        (i = .extbit →
          (rawValue t).toNat =
            if descStart s - 1 < 64 then
              d.toNat / 2 ^ (descStart s - 1) % 2 ^ min (descLength s) (64 - (descStart s - 1))
            else 0) ∧
        (match scale (rawValue t) res off with
          | some p => scaledValue t = p
          | none => isNan (scaledValue t) = true)

/-- R83: the transactions that convey an SPN definition leave its start and length, clamped to 255, in DESC, its
resolution in RES and its offset in OFF, and then issue EXTBYTE or EXTBIT by the kind of position. The order of the five
writes, and that the host makes the substitution of 255 R83 allows it, are the model's choice (log 17). -/
def Obligations.ConveyedDefinitionsReachTheOperands : Prop :=
  ∀ (s : State) (d : SpnDefinition) (start length : Nat) (i : Instr) (rest : List HostInput),
    (d.position = .bytePosition start length ∧ i = .extbyte ∨ d.position = .bitPosition start length ∧ i = .extbit) →
    s.pending = d.convey ++ rest →
      ∃ t, Host.Core.run Sys2Proof.core 5 s = .next t ∧ descStart t = min start 255 ∧ descLength t = min length 255 ∧
        resolution t = d.resolution ∧ offset t = d.offset ∧ t.dataLo = s.dataLo ∧ t.dataHi = s.dataHi ∧
        t.pending = .write 0x00 (encode i) :: rest

/-- R87, R88: the transaction of every line, and what every pseudo-instruction leaves in the block, `bits(f)` correctly
rounded. That a line is abstract syntax, and a decimal a sign, digits and a count of places, is the model's choice
(log 17). -/
def Obligations.AssemblerLinesDoWhatTheyName : Prop :=
  (∀ idx value, (AsmLine.wr idx value).wellFormed = true →
    ∃ j w, (AsmLine.wr idx value).expand = [.write j w] ∧ j.toNat = idx ∧ w.toNat = value) ∧
  (∀ idx, (AsmLine.rd idx).wellFormed = true → ∃ j, (AsmLine.rd idx).expand = [.read j] ∧ j.toNat = idx) ∧
  (AsmLine.decomp.expand = [.write 0x00 0x00000001] ∧ AsmLine.extbyte.expand = [.write 0x00 0x00000002] ∧
    AsmLine.extbit.expand = [.write 0x00 0x00000003] ∧ AsmLine.pop.expand = [.write 0x00 0x00000005] ∧
    AsmLine.srst.expand = [.write 0x00 0x00000006]) ∧
  (∀ b < 256, (AsmLine.push b).expand = [.write 0x00 (BitVec.ofNat 32 (4 ||| (b <<< 8)))]) ∧
  (∀ (s : State) (v : Nat) (rest : List HostInput), (AsmLine.setid v).wellFormed = true →
    s.pending = (AsmLine.setid v).expand ++ rest →
      ∃ t, step s = .next t ∧ t.id.toNat = v ∧ t.pending = rest) ∧
  (∀ (s : State) (b0 b1 b2 b3 b4 b5 b6 b7 : Nat) (rest : List HostInput),
    (AsmLine.setdata b0 b1 b2 b3 b4 b5 b6 b7).wellFormed = true →
    s.pending = (AsmLine.setdata b0 b1 b2 b3 b4 b5 b6 b7).expand ++ rest →
      ∃ t, Host.Core.run Sys2Proof.core 2 s = .next t ∧
        ∀ i, i < 8 → (payloadByte t i).toNat = [b0, b1, b2, b3, b4, b5, b6, b7][i]!) ∧
  (∀ (s : State) (start length : Nat) (rest : List HostInput),
    (AsmLine.setdesc start length).wellFormed = true →
    s.pending = (AsmLine.setdesc start length).expand ++ rest →
      ∃ t, step s = .next t ∧ descStart t = start ∧ descLength t = length) ∧
  (∀ f : Decimal, RoundsTo (unitsPerOne * f.digits) (10 ^ f.places) f.negative f.bits) ∧
  (∀ (s : State) (f : Decimal) (rest : List HostInput),
    s.pending = (AsmLine.setres f).expand ++ rest →
      ∃ t, Host.Core.run Sys2Proof.core 2 s = .next t ∧ resolution t = f.bits) ∧
  (∀ (s : State) (f : Decimal) (rest : List HostInput),
    s.pending = (AsmLine.setoff f).expand ++ rest →
      ∃ t, Host.Core.run Sys2Proof.core 2 s = .next t ∧ offset t = f.bits) ∧
  (∀ bs : List Nat, (AsmLine.pushn bs).wellFormed = true →
    (AsmLine.pushn bs).expand = bs.flatMap fun b => (AsmLine.push b).expand) ∧
  (∀ (s : State) (bs : List Nat) (rest : List HostInput), (AsmLine.pushn bs).wellFormed = true →
    s.pending = (AsmLine.pushn bs).expand ++ rest → s.buf.length + bs.length ≤ Config.asmCap →
      ∃ t, Host.Core.run Sys2Proof.core bs.length s = .next t ∧ t.err = 0 ∧
        t.buf.map BitVec.toNat = s.buf.map BitVec.toNat ++ bs ∧ t.pending = rest)

/-- R125: scaling is the conversion, then the product, then the sum, each rounded once and in that order. For finite RES
and OFF the product is the rounded one, and SCALED is the rounding of the sum of that rounded product and OFF, so the
two are not fused. The source's example. -/
def Obligations.ScalingIsTheRoundedProductPlusTheOffset : Prop :=
  (∀ raw res off p : DWord, fmul (cvtU64 raw) res = some p → scale raw res off = fadd p off) ∧
  (∀ raw res off : DWord, fmul (cvtU64 raw) res = none → scale raw res off = none) ∧
  (∀ (raw res off : DWord) (x y : Bool) (m n : Nat), fpValue res = .finite x m → fpValue off = .finite y n →
    ∃ (c : Nat) (p : DWord),
      fpValue (cvtU64 raw) = .finite false c ∧ NearestEvenUnits (unitsPerOne * raw.toNat) 1 (cvtU64 raw) c ∧
      fmul (cvtU64 raw) res = some p ∧ RoundsTo (c * m) unitsPerOne x p ∧
      ∀ k, fpValue p = .finite x k →
        ∃ q, scale raw res off = some q ∧
          RoundsTo (signedUnits x k + signedUnits y n).natAbs 1 (signBit q) q ∧
          (signedUnits x k + signedUnits y n ≠ 0 → signBit q = decide (signedUnits x k + signedUnits y n < 0))) ∧
  scale 1000 0x3FC0000000000000 0 = some 0x405F400000000000
end

