-- ==== Sys2Proof/Laws/Binary64.lean ====
section
/-! SUPPORT. The fields of a binary64 pattern as numbers, and the pattern built from a sign and magnitude bits. -/

namespace Sys2Proof.Machine

theorem unitsPerOne_pos : 0 < unitsPerOne := by
  unfold unitsPerOne
  exact pow_pos (by decide) _

theorem exponentField_eq (p : DWord) : exponentField p = p.toNat / 2 ^ 52 % 2 ^ 11 := by
  simp [exponentField, BitVec.extractLsb'_toNat, Nat.shiftRight_eq_div_pow]

theorem fractionField_eq (p : DWord) : fractionField p = p.toNat % 2 ^ 52 := by
  simp [fractionField, BitVec.extractLsb'_toNat]

theorem fractionField_lt (p : DWord) : fractionField p < 2 ^ 52 := by
  rw [fractionField_eq]
  exact Nat.mod_lt _ (by decide)

theorem signBit_eq (p : DWord) : signBit p = decide (p.toNat / 2 ^ 63 = 1) := by
  have := p.isLt
  rw [signBit, BitVec.getLsbD, Nat.testBit_eq_decide_div_mod_eq]
  exact decide_eq_decide.mpr (by omega)

theorem fpPattern_toNat (g : Bool) (b : Nat) (h : b < 2 ^ 63) :
    (fpPattern g b).toNat = (if g then 2 ^ 63 else 0) + b := by
  unfold fpPattern
  rw [BitVec.toNat_append, Nat.shiftLeft_eq, Nat.mul_comm, ← Nat.two_pow_add_eq_or_of_lt (BitVec.isLt _),
    BitVec.toNat_ofBool, BitVec.toNat_ofNat, Nat.mod_eq_of_lt h]
  cases g <;> simp

/-- The three fields of a pattern built from a sign and magnitude bits. -/
theorem fpPattern_fields (g : Bool) (b : Nat) (h : b < 2 ^ 63) :
    exponentField (fpPattern g b) = b / 2 ^ 52 ∧ fractionField (fpPattern g b) = b % 2 ^ 52 ∧
    signBit (fpPattern g b) = g := by
  rw [exponentField_eq, fractionField_eq, signBit_eq, fpPattern_toNat g b h]
  cases g
  · refine ⟨by simp; omega, by simp, by simp; omega⟩
  · refine ⟨by simp; omega, by simp; omega, by simp; omega⟩

theorem roundedBits_le (n d : Nat) : roundedBits n d ≤ infinityBits := by
  unfold roundedBits
  exact Nat.min_le_right _ _

theorem fpValue_infinityBits (g : Bool) : fpValue (fpPattern g infinityBits) = .infinity g := by
  obtain ⟨e, f, s⟩ := fpPattern_fields g infinityBits (by decide)
  unfold fpValue
  rw [e, f, s]
  simp [infinityBits]

/-- A finite value has at most 53 significant bits. -/
theorem fpValue_significant {p : DWord} {g : Bool} {v : Nat} (h : fpValue p = .finite g v) :
    ∃ s e, v = s * 2 ^ e ∧ s < 2 ^ 53 := by
  have hf := fractionField_lt p
  unfold fpValue at h
  split at h
  · split at h <;> cases h
  · split at h <;> injection h with h1 h2
    · exact ⟨v, 0, by simp, by omega⟩
    · exact ⟨_, _, h2.symm, by omega⟩

/-- Whatever the draw, the free NaN pattern is a NaN (U3). -/
@[simp] theorem isNan_nanPattern (draw : DWord) : isNan (nanPattern draw) = true := by
  have hlt : fractionField draw % (2 ^ 52 - 1) < 2 ^ 52 - 1 := Nat.mod_lt _ (by decide)
  obtain ⟨e, f, -⟩ := fpPattern_fields (signBit draw) (infinityBits + (fractionField draw % (2 ^ 52 - 1) + 1))
    (by unfold infinityBits; omega)
  unfold isNan nanPattern
  rw [e, f]
  unfold infinityBits
  have h1 : (2047 * 2 ^ 52 + (fractionField draw % (2 ^ 52 - 1) + 1)) / 2 ^ 52 = 2047 := by omega
  have h2 : (2047 * 2 ^ 52 + (fractionField draw % (2 ^ 52 - 1) + 1)) % 2 ^ 52 ≠ 0 := by omega
  simp only [h1, decide_true, Bool.true_and, decide_eq_true_eq]
  exact h2

end Sys2Proof.Machine
end

