-- ==== Sys2Proof/Laws/Config.lean ====
section
/-! SUPPORT. The two bounds on ASM_CAP (R6, R32), the only facts about it. -/

namespace Sys2Proof

theorem asmCap_ge : 24 ≤ Config.asmCap := Nat.le_add_left 24 _

theorem asmCap_lt : Config.asmCap < 2 ^ 32 := by
  have h : Config.asmCapDraw % (2 ^ 32 - 24) < 2 ^ 32 - 24 := Nat.mod_lt _ (by decide)
  unfold Config.asmCap
  omega

end Sys2Proof
end

