-- ==== Sys2Proof/Laws/Decode.lean ====
section
/-! SUPPORT. The fields of a word built from its fields, and the decoder read as one case distinction. -/

namespace Sys2Proof

@[simp] theorem opField_commandWord (op arg : Byte) : opField (commandWord op arg) = op := by
  unfold opField commandWord
  rw [BitVec.extractLsb'_append_eq_of_add_le (by omega)]
  simp

@[simp] theorem argField_commandWord (op arg : Byte) : argField (commandWord op arg) = arg := by
  unfold argField commandWord
  rw [BitVec.extractLsb'_append_eq_of_le (by omega), BitVec.extractLsb'_append_eq_of_add_le (by omega)]
  simp

@[simp] theorem zeroField_commandWord (op arg : Byte) : zeroField (commandWord op arg) = 0 := by
  unfold zeroField commandWord
  ext i hi
  simp only [BitVec.getElem_extractLsb', BitVec.getLsbD_append]
  simp [show ¬ (16 + i < 8) by omega, show ¬ (16 + i - 8 < 8) by omega]

end Sys2Proof
end

