-- ==== Sys2Proof/Laws/Operands.lean ====
section
/-! SUPPORT. The operand views as numbers: the halves of a 64-bit quantity, the big-endian and little-endian words of
a frame, and the fields of a word. -/

namespace Sys2Proof.Machine

/-- A word above a byte, as a number. -/
theorem append_byte_toNat {n : Nat} (x : BitVec n) (y : Byte) : (x ++ y).toNat = x.toNat * 2 ^ 8 + y.toNat := by
  rw [BitVec.toNat_append, Nat.shiftLeft_eq, Nat.mul_comm, ← Nat.two_pow_add_eq_or_of_lt y.isLt]

/-- The two registers of a pair hold the whole quantity (R68). -/
@[simp] theorem hiHalf_append_loHalf (v : DWord) : hiHalf v ++ loHalf v = v := by
  apply BitVec.eq_of_toNat_eq
  have := v.isLt
  rw [BitVec.toNat_append, Nat.shiftLeft_eq, Nat.mul_comm, ← Nat.two_pow_add_eq_or_of_lt (loHalf v).isLt]
  simp only [hiHalf, loHalf, BitVec.extractLsb'_toNat, Nat.shiftRight_eq_div_pow]
  omega

theorem be32_toNat (b0 b1 b2 b3 : Byte) :
    (be32 b0 b1 b2 b3).toNat = b0.toNat * 2 ^ 24 + b1.toNat * 2 ^ 16 + b2.toNat * 2 ^ 8 + b3.toNat := by
  unfold be32
  rw [append_byte_toNat, append_byte_toNat, append_byte_toNat]
  ring

theorem le32_toNat (b0 b1 b2 b3 : Byte) :
    (le32 b0 b1 b2 b3).toNat = b3.toNat * 2 ^ 24 + b2.toNat * 2 ^ 16 + b1.toNat * 2 ^ 8 + b0.toNat :=
  be32_toNat b3 b2 b1 b0

/-- Byte `i` of a word built from four bytes. -/
theorem extract_le32 (b0 b1 b2 b3 : Byte) (i : Nat) (h : i < 4) :
    (le32 b0 b1 b2 b3).extractLsb' (8 * i) 8 = [b0, b1, b2, b3][i]! := by
  have e := le32_toNat b0 b1 b2 b3
  have := b0.isLt
  have := b1.isLt
  have := b2.isLt
  have := b3.isLt
  apply BitVec.eq_of_toNat_eq
  rw [BitVec.extractLsb'_toNat, e, Nat.shiftRight_eq_div_pow]
  interval_cases i <;> simp <;> omega

/-- Two little-endian words hold eight bytes in payload order (R25). -/
theorem byteOf_le32 (b0 b1 b2 b3 b4 b5 b6 b7 : Byte) (i : Nat) (h : i < 8) :
    byteOf (le32 b0 b1 b2 b3) (le32 b4 b5 b6 b7) i = [b0, b1, b2, b3, b4, b5, b6, b7][i]! := by
  unfold byteOf
  split
  · rw [extract_le32 _ _ _ _ _ ‹_›]
    interval_cases i <;> rfl
  · rw [extract_le32 _ _ _ _ _ (by omega)]
    interval_cases i <;> first | omega | rfl

/-- A slice of a word, as a number. -/
theorem extract_toNat {n : Nat} (w : BitVec n) (lo width : Nat) :
    (w.extractLsb' lo width).toNat = w.toNat / 2 ^ lo % 2 ^ width := by
  rw [BitVec.extractLsb'_toNat, Nat.shiftRight_eq_div_pow]

end Sys2Proof.Machine
end

