-- ==== Sys2Proof/Laws/State.lean ====
section
/-! SUPPORT. One lemma per field for each update of the state by the shared operations of Machine/Ops.lean, each true
by unfolding once, so that no later proof unfolds a record update. -/

namespace Sys2Proof.Machine

@[simp] theorem raise_id (c : ResultCode) (s : State) : (raise c s).id = s.id := rfl
@[simp] theorem raise_dataLo (c : ResultCode) (s : State) : (raise c s).dataLo = s.dataLo := rfl
@[simp] theorem raise_dataHi (c : ResultCode) (s : State) : (raise c s).dataHi = s.dataHi := rfl
@[simp] theorem raise_desc (c : ResultCode) (s : State) : (raise c s).desc = s.desc := rfl
@[simp] theorem raise_resLo (c : ResultCode) (s : State) : (raise c s).resLo = s.resLo := rfl
@[simp] theorem raise_resHi (c : ResultCode) (s : State) : (raise c s).resHi = s.resHi := rfl
@[simp] theorem raise_offLo (c : ResultCode) (s : State) : (raise c s).offLo = s.offLo := rfl
@[simp] theorem raise_offHi (c : ResultCode) (s : State) : (raise c s).offHi = s.offHi := rfl
@[simp] theorem raise_priority (c : ResultCode) (s : State) : (raise c s).priority = s.priority := rfl
@[simp] theorem raise_dataPage (c : ResultCode) (s : State) : (raise c s).dataPage = s.dataPage := rfl
@[simp] theorem raise_pduFormat (c : ResultCode) (s : State) : (raise c s).pduFormat = s.pduFormat := rfl
@[simp] theorem raise_pduSpecific (c : ResultCode) (s : State) : (raise c s).pduSpecific = s.pduSpecific := rfl
@[simp] theorem raise_sourceAddress (c : ResultCode) (s : State) : (raise c s).sourceAddress = s.sourceAddress := rfl
@[simp] theorem raise_pgn (c : ResultCode) (s : State) : (raise c s).pgn = s.pgn := rfl
@[simp] theorem raise_rawLo (c : ResultCode) (s : State) : (raise c s).rawLo = s.rawLo := rfl
@[simp] theorem raise_rawHi (c : ResultCode) (s : State) : (raise c s).rawHi = s.rawHi := rfl
@[simp] theorem raise_scaledLo (c : ResultCode) (s : State) : (raise c s).scaledLo = s.scaledLo := rfl
@[simp] theorem raise_scaledHi (c : ResultCode) (s : State) : (raise c s).scaledHi = s.scaledHi := rfl
@[simp] theorem raise_err (c : ResultCode) (s : State) : (raise c s).err = c.code := rfl
@[simp] theorem raise_trunc (c : ResultCode) (s : State) : (raise c s).trunc = s.trunc := rfl
@[simp] theorem raise_buf (c : ResultCode) (s : State) : (raise c s).buf = s.buf := rfl
@[simp] theorem raise_pending (c : ResultCode) (s : State) : (raise c s).pending = s.pending := rfl
@[simp] theorem raise_returned (c : ResultCode) (s : State) : (raise c s).returned = s.returned := rfl

@[simp] theorem finishOk_id (s : State) : (finishOk s).id = s.id := rfl
@[simp] theorem finishOk_dataLo (s : State) : (finishOk s).dataLo = s.dataLo := rfl
@[simp] theorem finishOk_dataHi (s : State) : (finishOk s).dataHi = s.dataHi := rfl
@[simp] theorem finishOk_desc (s : State) : (finishOk s).desc = s.desc := rfl
@[simp] theorem finishOk_resLo (s : State) : (finishOk s).resLo = s.resLo := rfl
@[simp] theorem finishOk_resHi (s : State) : (finishOk s).resHi = s.resHi := rfl
@[simp] theorem finishOk_offLo (s : State) : (finishOk s).offLo = s.offLo := rfl
@[simp] theorem finishOk_offHi (s : State) : (finishOk s).offHi = s.offHi := rfl
@[simp] theorem finishOk_priority (s : State) : (finishOk s).priority = s.priority := rfl
@[simp] theorem finishOk_dataPage (s : State) : (finishOk s).dataPage = s.dataPage := rfl
@[simp] theorem finishOk_pduFormat (s : State) : (finishOk s).pduFormat = s.pduFormat := rfl
@[simp] theorem finishOk_pduSpecific (s : State) : (finishOk s).pduSpecific = s.pduSpecific := rfl
@[simp] theorem finishOk_sourceAddress (s : State) : (finishOk s).sourceAddress = s.sourceAddress := rfl
@[simp] theorem finishOk_pgn (s : State) : (finishOk s).pgn = s.pgn := rfl
@[simp] theorem finishOk_rawLo (s : State) : (finishOk s).rawLo = s.rawLo := rfl
@[simp] theorem finishOk_rawHi (s : State) : (finishOk s).rawHi = s.rawHi := rfl
@[simp] theorem finishOk_scaledLo (s : State) : (finishOk s).scaledLo = s.scaledLo := rfl
@[simp] theorem finishOk_scaledHi (s : State) : (finishOk s).scaledHi = s.scaledHi := rfl
@[simp] theorem finishOk_err (s : State) : (finishOk s).err = 0 := rfl
@[simp] theorem finishOk_trunc (s : State) : (finishOk s).trunc = s.trunc := rfl
@[simp] theorem finishOk_buf (s : State) : (finishOk s).buf = s.buf := rfl
@[simp] theorem finishOk_pending (s : State) : (finishOk s).pending = s.pending := rfl
@[simp] theorem finishOk_returned (s : State) : (finishOk s).returned = s.returned := rfl

@[simp] theorem returnToHost_id (v : Word) (s : State) : (returnToHost v s).id = s.id := rfl
@[simp] theorem returnToHost_dataLo (v : Word) (s : State) : (returnToHost v s).dataLo = s.dataLo := rfl
@[simp] theorem returnToHost_dataHi (v : Word) (s : State) : (returnToHost v s).dataHi = s.dataHi := rfl
@[simp] theorem returnToHost_desc (v : Word) (s : State) : (returnToHost v s).desc = s.desc := rfl
@[simp] theorem returnToHost_resLo (v : Word) (s : State) : (returnToHost v s).resLo = s.resLo := rfl
@[simp] theorem returnToHost_resHi (v : Word) (s : State) : (returnToHost v s).resHi = s.resHi := rfl
@[simp] theorem returnToHost_offLo (v : Word) (s : State) : (returnToHost v s).offLo = s.offLo := rfl
@[simp] theorem returnToHost_offHi (v : Word) (s : State) : (returnToHost v s).offHi = s.offHi := rfl
@[simp] theorem returnToHost_priority (v : Word) (s : State) : (returnToHost v s).priority = s.priority := rfl
@[simp] theorem returnToHost_dataPage (v : Word) (s : State) : (returnToHost v s).dataPage = s.dataPage := rfl
@[simp] theorem returnToHost_pduFormat (v : Word) (s : State) : (returnToHost v s).pduFormat = s.pduFormat := rfl
@[simp] theorem returnToHost_pduSpecific (v : Word) (s : State) : (returnToHost v s).pduSpecific = s.pduSpecific := rfl
@[simp] theorem returnToHost_sourceAddress (v : Word) (s : State) : (returnToHost v s).sourceAddress = s.sourceAddress := rfl
@[simp] theorem returnToHost_pgn (v : Word) (s : State) : (returnToHost v s).pgn = s.pgn := rfl
@[simp] theorem returnToHost_rawLo (v : Word) (s : State) : (returnToHost v s).rawLo = s.rawLo := rfl
@[simp] theorem returnToHost_rawHi (v : Word) (s : State) : (returnToHost v s).rawHi = s.rawHi := rfl
@[simp] theorem returnToHost_scaledLo (v : Word) (s : State) : (returnToHost v s).scaledLo = s.scaledLo := rfl
@[simp] theorem returnToHost_scaledHi (v : Word) (s : State) : (returnToHost v s).scaledHi = s.scaledHi := rfl
@[simp] theorem returnToHost_err (v : Word) (s : State) : (returnToHost v s).err = s.err := rfl
@[simp] theorem returnToHost_trunc (v : Word) (s : State) : (returnToHost v s).trunc = s.trunc := rfl
@[simp] theorem returnToHost_buf (v : Word) (s : State) : (returnToHost v s).buf = s.buf := rfl
@[simp] theorem returnToHost_pending (v : Word) (s : State) : (returnToHost v s).pending = s.pending := rfl
@[simp] theorem returnToHost_returned (v : Word) (s : State) : (returnToHost v s).returned = s.returned ++ [v] := rfl

@[simp] theorem takeInput_id (rest : List HostInput) (s : State) : (takeInput rest s).id = s.id := rfl
@[simp] theorem takeInput_dataLo (rest : List HostInput) (s : State) : (takeInput rest s).dataLo = s.dataLo := rfl
@[simp] theorem takeInput_dataHi (rest : List HostInput) (s : State) : (takeInput rest s).dataHi = s.dataHi := rfl
@[simp] theorem takeInput_desc (rest : List HostInput) (s : State) : (takeInput rest s).desc = s.desc := rfl
@[simp] theorem takeInput_resLo (rest : List HostInput) (s : State) : (takeInput rest s).resLo = s.resLo := rfl
@[simp] theorem takeInput_resHi (rest : List HostInput) (s : State) : (takeInput rest s).resHi = s.resHi := rfl
@[simp] theorem takeInput_offLo (rest : List HostInput) (s : State) : (takeInput rest s).offLo = s.offLo := rfl
@[simp] theorem takeInput_offHi (rest : List HostInput) (s : State) : (takeInput rest s).offHi = s.offHi := rfl
@[simp] theorem takeInput_priority (rest : List HostInput) (s : State) : (takeInput rest s).priority = s.priority := rfl
@[simp] theorem takeInput_dataPage (rest : List HostInput) (s : State) : (takeInput rest s).dataPage = s.dataPage := rfl
@[simp] theorem takeInput_pduFormat (rest : List HostInput) (s : State) : (takeInput rest s).pduFormat = s.pduFormat := rfl
@[simp] theorem takeInput_pduSpecific (rest : List HostInput) (s : State) : (takeInput rest s).pduSpecific = s.pduSpecific := rfl
@[simp] theorem takeInput_sourceAddress (rest : List HostInput) (s : State) : (takeInput rest s).sourceAddress = s.sourceAddress := rfl
@[simp] theorem takeInput_pgn (rest : List HostInput) (s : State) : (takeInput rest s).pgn = s.pgn := rfl
@[simp] theorem takeInput_rawLo (rest : List HostInput) (s : State) : (takeInput rest s).rawLo = s.rawLo := rfl
@[simp] theorem takeInput_rawHi (rest : List HostInput) (s : State) : (takeInput rest s).rawHi = s.rawHi := rfl
@[simp] theorem takeInput_scaledLo (rest : List HostInput) (s : State) : (takeInput rest s).scaledLo = s.scaledLo := rfl
@[simp] theorem takeInput_scaledHi (rest : List HostInput) (s : State) : (takeInput rest s).scaledHi = s.scaledHi := rfl
@[simp] theorem takeInput_err (rest : List HostInput) (s : State) : (takeInput rest s).err = s.err := rfl
@[simp] theorem takeInput_trunc (rest : List HostInput) (s : State) : (takeInput rest s).trunc = s.trunc := rfl
@[simp] theorem takeInput_buf (rest : List HostInput) (s : State) : (takeInput rest s).buf = s.buf := rfl
@[simp] theorem takeInput_pending (rest : List HostInput) (s : State) : (takeInput rest s).pending = rest := rfl
@[simp] theorem takeInput_returned (rest : List HostInput) (s : State) : (takeInput rest s).returned = s.returned := rfl

@[simp] theorem appendByte_id (b : Byte) (s : State) : (appendByte b s).id = s.id := rfl
@[simp] theorem appendByte_dataLo (b : Byte) (s : State) : (appendByte b s).dataLo = s.dataLo := rfl
@[simp] theorem appendByte_dataHi (b : Byte) (s : State) : (appendByte b s).dataHi = s.dataHi := rfl
@[simp] theorem appendByte_desc (b : Byte) (s : State) : (appendByte b s).desc = s.desc := rfl
@[simp] theorem appendByte_resLo (b : Byte) (s : State) : (appendByte b s).resLo = s.resLo := rfl
@[simp] theorem appendByte_resHi (b : Byte) (s : State) : (appendByte b s).resHi = s.resHi := rfl
@[simp] theorem appendByte_offLo (b : Byte) (s : State) : (appendByte b s).offLo = s.offLo := rfl
@[simp] theorem appendByte_offHi (b : Byte) (s : State) : (appendByte b s).offHi = s.offHi := rfl
@[simp] theorem appendByte_priority (b : Byte) (s : State) : (appendByte b s).priority = s.priority := rfl
@[simp] theorem appendByte_dataPage (b : Byte) (s : State) : (appendByte b s).dataPage = s.dataPage := rfl
@[simp] theorem appendByte_pduFormat (b : Byte) (s : State) : (appendByte b s).pduFormat = s.pduFormat := rfl
@[simp] theorem appendByte_pduSpecific (b : Byte) (s : State) : (appendByte b s).pduSpecific = s.pduSpecific := rfl
@[simp] theorem appendByte_sourceAddress (b : Byte) (s : State) : (appendByte b s).sourceAddress = s.sourceAddress := rfl
@[simp] theorem appendByte_pgn (b : Byte) (s : State) : (appendByte b s).pgn = s.pgn := rfl
@[simp] theorem appendByte_rawLo (b : Byte) (s : State) : (appendByte b s).rawLo = s.rawLo := rfl
@[simp] theorem appendByte_rawHi (b : Byte) (s : State) : (appendByte b s).rawHi = s.rawHi := rfl
@[simp] theorem appendByte_scaledLo (b : Byte) (s : State) : (appendByte b s).scaledLo = s.scaledLo := rfl
@[simp] theorem appendByte_scaledHi (b : Byte) (s : State) : (appendByte b s).scaledHi = s.scaledHi := rfl
@[simp] theorem appendByte_err (b : Byte) (s : State) : (appendByte b s).err = s.err := rfl
@[simp] theorem appendByte_trunc (b : Byte) (s : State) : (appendByte b s).trunc = s.trunc := rfl
@[simp] theorem appendByte_buf (b : Byte) (s : State) : (appendByte b s).buf = s.buf ++ [b] := rfl
@[simp] theorem appendByte_pending (b : Byte) (s : State) : (appendByte b s).pending = s.pending := rfl
@[simp] theorem appendByte_returned (b : Byte) (s : State) : (appendByte b s).returned = s.returned := rfl

@[simp] theorem takeFrame_id (s : State) : (takeFrame s).id = be32 (bufByte s 0) (bufByte s 1) (bufByte s 2) (bufByte s 3) := rfl
@[simp] theorem takeFrame_dataLo (s : State) : (takeFrame s).dataLo = le32 (bufByte s 4) (bufByte s 5) (bufByte s 6) (bufByte s 7) := rfl
@[simp] theorem takeFrame_dataHi (s : State) : (takeFrame s).dataHi = le32 (bufByte s 8) (bufByte s 9) (bufByte s 10) (bufByte s 11) := rfl
@[simp] theorem takeFrame_desc (s : State) : (takeFrame s).desc = s.desc := rfl
@[simp] theorem takeFrame_resLo (s : State) : (takeFrame s).resLo = s.resLo := rfl
@[simp] theorem takeFrame_resHi (s : State) : (takeFrame s).resHi = s.resHi := rfl
@[simp] theorem takeFrame_offLo (s : State) : (takeFrame s).offLo = s.offLo := rfl
@[simp] theorem takeFrame_offHi (s : State) : (takeFrame s).offHi = s.offHi := rfl
@[simp] theorem takeFrame_priority (s : State) : (takeFrame s).priority = s.priority := rfl
@[simp] theorem takeFrame_dataPage (s : State) : (takeFrame s).dataPage = s.dataPage := rfl
@[simp] theorem takeFrame_pduFormat (s : State) : (takeFrame s).pduFormat = s.pduFormat := rfl
@[simp] theorem takeFrame_pduSpecific (s : State) : (takeFrame s).pduSpecific = s.pduSpecific := rfl
@[simp] theorem takeFrame_sourceAddress (s : State) : (takeFrame s).sourceAddress = s.sourceAddress := rfl
@[simp] theorem takeFrame_pgn (s : State) : (takeFrame s).pgn = s.pgn := rfl
@[simp] theorem takeFrame_rawLo (s : State) : (takeFrame s).rawLo = s.rawLo := rfl
@[simp] theorem takeFrame_rawHi (s : State) : (takeFrame s).rawHi = s.rawHi := rfl
@[simp] theorem takeFrame_scaledLo (s : State) : (takeFrame s).scaledLo = s.scaledLo := rfl
@[simp] theorem takeFrame_scaledHi (s : State) : (takeFrame s).scaledHi = s.scaledHi := rfl
@[simp] theorem takeFrame_err (s : State) : (takeFrame s).err = s.err := rfl
@[simp] theorem takeFrame_trunc (s : State) : (takeFrame s).trunc = s.trunc := rfl
@[simp] theorem takeFrame_buf (s : State) : (takeFrame s).buf = s.buf.drop frameBytes := rfl
@[simp] theorem takeFrame_pending (s : State) : (takeFrame s).pending = s.pending := rfl
@[simp] theorem takeFrame_returned (s : State) : (takeFrame s).returned = s.returned := rfl

@[simp] theorem writeHeader_id (p dp pf ps sa g : Word) (s : State) : (writeHeader p dp pf ps sa g s).id = s.id := rfl
@[simp] theorem writeHeader_dataLo (p dp pf ps sa g : Word) (s : State) : (writeHeader p dp pf ps sa g s).dataLo = s.dataLo := rfl
@[simp] theorem writeHeader_dataHi (p dp pf ps sa g : Word) (s : State) : (writeHeader p dp pf ps sa g s).dataHi = s.dataHi := rfl
@[simp] theorem writeHeader_desc (p dp pf ps sa g : Word) (s : State) : (writeHeader p dp pf ps sa g s).desc = s.desc := rfl
@[simp] theorem writeHeader_resLo (p dp pf ps sa g : Word) (s : State) : (writeHeader p dp pf ps sa g s).resLo = s.resLo := rfl
@[simp] theorem writeHeader_resHi (p dp pf ps sa g : Word) (s : State) : (writeHeader p dp pf ps sa g s).resHi = s.resHi := rfl
@[simp] theorem writeHeader_offLo (p dp pf ps sa g : Word) (s : State) : (writeHeader p dp pf ps sa g s).offLo = s.offLo := rfl
@[simp] theorem writeHeader_offHi (p dp pf ps sa g : Word) (s : State) : (writeHeader p dp pf ps sa g s).offHi = s.offHi := rfl
@[simp] theorem writeHeader_priority (p dp pf ps sa g : Word) (s : State) : (writeHeader p dp pf ps sa g s).priority = p := rfl
@[simp] theorem writeHeader_dataPage (p dp pf ps sa g : Word) (s : State) : (writeHeader p dp pf ps sa g s).dataPage = dp := rfl
@[simp] theorem writeHeader_pduFormat (p dp pf ps sa g : Word) (s : State) : (writeHeader p dp pf ps sa g s).pduFormat = pf := rfl
@[simp] theorem writeHeader_pduSpecific (p dp pf ps sa g : Word) (s : State) : (writeHeader p dp pf ps sa g s).pduSpecific = ps := rfl
@[simp] theorem writeHeader_sourceAddress (p dp pf ps sa g : Word) (s : State) : (writeHeader p dp pf ps sa g s).sourceAddress = sa := rfl
@[simp] theorem writeHeader_pgn (p dp pf ps sa g : Word) (s : State) : (writeHeader p dp pf ps sa g s).pgn = g := rfl
@[simp] theorem writeHeader_rawLo (p dp pf ps sa g : Word) (s : State) : (writeHeader p dp pf ps sa g s).rawLo = s.rawLo := rfl
@[simp] theorem writeHeader_rawHi (p dp pf ps sa g : Word) (s : State) : (writeHeader p dp pf ps sa g s).rawHi = s.rawHi := rfl
@[simp] theorem writeHeader_scaledLo (p dp pf ps sa g : Word) (s : State) : (writeHeader p dp pf ps sa g s).scaledLo = s.scaledLo := rfl
@[simp] theorem writeHeader_scaledHi (p dp pf ps sa g : Word) (s : State) : (writeHeader p dp pf ps sa g s).scaledHi = s.scaledHi := rfl
@[simp] theorem writeHeader_err (p dp pf ps sa g : Word) (s : State) : (writeHeader p dp pf ps sa g s).err = s.err := rfl
@[simp] theorem writeHeader_trunc (p dp pf ps sa g : Word) (s : State) : (writeHeader p dp pf ps sa g s).trunc = s.trunc := rfl
@[simp] theorem writeHeader_buf (p dp pf ps sa g : Word) (s : State) : (writeHeader p dp pf ps sa g s).buf = s.buf := rfl
@[simp] theorem writeHeader_pending (p dp pf ps sa g : Word) (s : State) : (writeHeader p dp pf ps sa g s).pending = s.pending := rfl
@[simp] theorem writeHeader_returned (p dp pf ps sa g : Word) (s : State) : (writeHeader p dp pf ps sa g s).returned = s.returned := rfl

@[simp] theorem writeExtract_id (i : Instr) (raw : DWord) (tr : Bool) (s : State) : (writeExtract i raw tr s).id = s.id := rfl
@[simp] theorem writeExtract_dataLo (i : Instr) (raw : DWord) (tr : Bool) (s : State) : (writeExtract i raw tr s).dataLo = s.dataLo := rfl
@[simp] theorem writeExtract_dataHi (i : Instr) (raw : DWord) (tr : Bool) (s : State) : (writeExtract i raw tr s).dataHi = s.dataHi := rfl
@[simp] theorem writeExtract_desc (i : Instr) (raw : DWord) (tr : Bool) (s : State) : (writeExtract i raw tr s).desc = s.desc := rfl
@[simp] theorem writeExtract_resLo (i : Instr) (raw : DWord) (tr : Bool) (s : State) : (writeExtract i raw tr s).resLo = s.resLo := rfl
@[simp] theorem writeExtract_resHi (i : Instr) (raw : DWord) (tr : Bool) (s : State) : (writeExtract i raw tr s).resHi = s.resHi := rfl
@[simp] theorem writeExtract_offLo (i : Instr) (raw : DWord) (tr : Bool) (s : State) : (writeExtract i raw tr s).offLo = s.offLo := rfl
@[simp] theorem writeExtract_offHi (i : Instr) (raw : DWord) (tr : Bool) (s : State) : (writeExtract i raw tr s).offHi = s.offHi := rfl
@[simp] theorem writeExtract_priority (i : Instr) (raw : DWord) (tr : Bool) (s : State) : (writeExtract i raw tr s).priority = s.priority := rfl
@[simp] theorem writeExtract_dataPage (i : Instr) (raw : DWord) (tr : Bool) (s : State) : (writeExtract i raw tr s).dataPage = s.dataPage := rfl
@[simp] theorem writeExtract_pduFormat (i : Instr) (raw : DWord) (tr : Bool) (s : State) : (writeExtract i raw tr s).pduFormat = s.pduFormat := rfl
@[simp] theorem writeExtract_pduSpecific (i : Instr) (raw : DWord) (tr : Bool) (s : State) : (writeExtract i raw tr s).pduSpecific = s.pduSpecific := rfl
@[simp] theorem writeExtract_sourceAddress (i : Instr) (raw : DWord) (tr : Bool) (s : State) : (writeExtract i raw tr s).sourceAddress = s.sourceAddress := rfl
@[simp] theorem writeExtract_pgn (i : Instr) (raw : DWord) (tr : Bool) (s : State) : (writeExtract i raw tr s).pgn = s.pgn := rfl
@[simp] theorem writeExtract_rawLo (i : Instr) (raw : DWord) (tr : Bool) (s : State) : (writeExtract i raw tr s).rawLo = loHalf raw := rfl
@[simp] theorem writeExtract_rawHi (i : Instr) (raw : DWord) (tr : Bool) (s : State) : (writeExtract i raw tr s).rawHi = hiHalf raw := rfl
@[simp] theorem writeExtract_scaledLo (i : Instr) (raw : DWord) (tr : Bool) (s : State) : (writeExtract i raw tr s).scaledLo = loHalf (scaledPattern i raw s) := rfl
@[simp] theorem writeExtract_scaledHi (i : Instr) (raw : DWord) (tr : Bool) (s : State) : (writeExtract i raw tr s).scaledHi = hiHalf (scaledPattern i raw s) := rfl
@[simp] theorem writeExtract_err (i : Instr) (raw : DWord) (tr : Bool) (s : State) : (writeExtract i raw tr s).err = s.err := rfl
@[simp] theorem writeExtract_trunc (i : Instr) (raw : DWord) (tr : Bool) (s : State) : (writeExtract i raw tr s).trunc = tr := rfl
@[simp] theorem writeExtract_buf (i : Instr) (raw : DWord) (tr : Bool) (s : State) : (writeExtract i raw tr s).buf = s.buf := rfl
@[simp] theorem writeExtract_pending (i : Instr) (raw : DWord) (tr : Bool) (s : State) : (writeExtract i raw tr s).pending = s.pending := rfl
@[simp] theorem writeExtract_returned (i : Instr) (raw : DWord) (tr : Bool) (s : State) : (writeExtract i raw tr s).returned = s.returned := rfl

@[simp] theorem reset_id : State.reset.id = 0 := rfl
@[simp] theorem reset_dataLo : State.reset.dataLo = 0 := rfl
@[simp] theorem reset_dataHi : State.reset.dataHi = 0 := rfl
@[simp] theorem reset_desc : State.reset.desc = 0 := rfl
@[simp] theorem reset_resLo : State.reset.resLo = 0 := rfl
@[simp] theorem reset_resHi : State.reset.resHi = 0x3FF00000 := rfl
@[simp] theorem reset_offLo : State.reset.offLo = 0 := rfl
@[simp] theorem reset_offHi : State.reset.offHi = 0 := rfl
@[simp] theorem reset_priority : State.reset.priority = 0 := rfl
@[simp] theorem reset_dataPage : State.reset.dataPage = 0 := rfl
@[simp] theorem reset_pduFormat : State.reset.pduFormat = 0 := rfl
@[simp] theorem reset_pduSpecific : State.reset.pduSpecific = 0 := rfl
@[simp] theorem reset_sourceAddress : State.reset.sourceAddress = 0 := rfl
@[simp] theorem reset_pgn : State.reset.pgn = 0 := rfl
@[simp] theorem reset_rawLo : State.reset.rawLo = 0 := rfl
@[simp] theorem reset_rawHi : State.reset.rawHi = 0 := rfl
@[simp] theorem reset_scaledLo : State.reset.scaledLo = 0 := rfl
@[simp] theorem reset_scaledHi : State.reset.scaledHi = 0 := rfl
@[simp] theorem reset_err : State.reset.err = 0 := rfl
@[simp] theorem reset_trunc : State.reset.trunc = false := rfl
@[simp] theorem reset_buf : State.reset.buf = [] := rfl
@[simp] theorem reset_pending : State.reset.pending = [] := rfl
@[simp] theorem reset_returned : State.reset.returned = [] := rfl

@[simp] theorem resetBlock_id (s : State) : (resetBlock s).id = 0 := rfl
@[simp] theorem resetBlock_dataLo (s : State) : (resetBlock s).dataLo = 0 := rfl
@[simp] theorem resetBlock_dataHi (s : State) : (resetBlock s).dataHi = 0 := rfl
@[simp] theorem resetBlock_desc (s : State) : (resetBlock s).desc = 0 := rfl
@[simp] theorem resetBlock_resLo (s : State) : (resetBlock s).resLo = 0 := rfl
@[simp] theorem resetBlock_resHi (s : State) : (resetBlock s).resHi = 0x3FF00000 := rfl
@[simp] theorem resetBlock_offLo (s : State) : (resetBlock s).offLo = 0 := rfl
@[simp] theorem resetBlock_offHi (s : State) : (resetBlock s).offHi = 0 := rfl
@[simp] theorem resetBlock_priority (s : State) : (resetBlock s).priority = 0 := rfl
@[simp] theorem resetBlock_dataPage (s : State) : (resetBlock s).dataPage = 0 := rfl
@[simp] theorem resetBlock_pduFormat (s : State) : (resetBlock s).pduFormat = 0 := rfl
@[simp] theorem resetBlock_pduSpecific (s : State) : (resetBlock s).pduSpecific = 0 := rfl
@[simp] theorem resetBlock_sourceAddress (s : State) : (resetBlock s).sourceAddress = 0 := rfl
@[simp] theorem resetBlock_pgn (s : State) : (resetBlock s).pgn = 0 := rfl
@[simp] theorem resetBlock_rawLo (s : State) : (resetBlock s).rawLo = 0 := rfl
@[simp] theorem resetBlock_rawHi (s : State) : (resetBlock s).rawHi = 0 := rfl
@[simp] theorem resetBlock_scaledLo (s : State) : (resetBlock s).scaledLo = 0 := rfl
@[simp] theorem resetBlock_scaledHi (s : State) : (resetBlock s).scaledHi = 0 := rfl
@[simp] theorem resetBlock_err (s : State) : (resetBlock s).err = 0 := rfl
@[simp] theorem resetBlock_trunc (s : State) : (resetBlock s).trunc = false := rfl
@[simp] theorem resetBlock_buf (s : State) : (resetBlock s).buf = [] := rfl
@[simp] theorem resetBlock_pending (s : State) : (resetBlock s).pending = s.pending := rfl
@[simp] theorem resetBlock_returned (s : State) : (resetBlock s).returned = s.returned := rfl

/-! The eight stores of a host write, each as the record update it is. -/

@[simp] theorem writeReg_id (v : Word) (s : State) : writeReg .id v s = { s with id := v } := rfl
@[simp] theorem writeReg_dataLo (v : Word) (s : State) : writeReg .dataLo v s = { s with dataLo := v } := rfl
@[simp] theorem writeReg_dataHi (v : Word) (s : State) : writeReg .dataHi v s = { s with dataHi := v } := rfl
@[simp] theorem writeReg_desc (v : Word) (s : State) : writeReg .desc v s = { s with desc := descMask v } := rfl
@[simp] theorem writeReg_resLo (v : Word) (s : State) : writeReg .resLo v s = { s with resLo := v } := rfl
@[simp] theorem writeReg_resHi (v : Word) (s : State) : writeReg .resHi v s = { s with resHi := v } := rfl
@[simp] theorem writeReg_offLo (v : Word) (s : State) : writeReg .offLo v s = { s with offLo := v } := rfl
@[simp] theorem writeReg_offHi (v : Word) (s : State) : writeReg .offHi v s = { s with offHi := v } := rfl

end Sys2Proof.Machine
end

