-- ==== Sys2Proof/Laws/Ops.lean ====
section
/-! SUPPORT. For each shared operation and for the step, one lemma that says once everything it can do. Later proofs
cite these and do not unfold the operations. -/

namespace Sys2Proof.Machine

/-! ## Register indices -/

@[simp] theorem ofIdx_idx (r : Reg) : Reg.ofIdx r.idx = some r := by cases r <;> rfl

theorem ofIdx_cases (idx : RegIndex) : (∃ r : Reg, idx = r.idx) ∨ (0x15 ≤ idx.toNat ∧ Reg.ofIdx idx = none) := by
  by_cases h : idx.toNat < 0x15
  · left
    obtain ⟨n, hn⟩ := idx
    simp only [BitVec.toNat_ofFin] at h
    interval_cases n
    exacts [⟨.cmd, rfl⟩, ⟨.status, rfl⟩, ⟨.id, rfl⟩, ⟨.dataLo, rfl⟩, ⟨.dataHi, rfl⟩, ⟨.desc, rfl⟩, ⟨.resLo, rfl⟩,
      ⟨.resHi, rfl⟩, ⟨.offLo, rfl⟩, ⟨.offHi, rfl⟩, ⟨.priority, rfl⟩, ⟨.dataPage, rfl⟩, ⟨.pduFormat, rfl⟩,
      ⟨.pduSpecific, rfl⟩, ⟨.sourceAddress, rfl⟩, ⟨.pgn, rfl⟩, ⟨.rawLo, rfl⟩, ⟨.rawHi, rfl⟩, ⟨.scaledLo, rfl⟩,
      ⟨.scaledHi, rfl⟩, ⟨.asmCount, rfl⟩]
  · right
    refine ⟨by omega, ?_⟩
    unfold Reg.ofIdx
    rw [List.getElem?_eq_none_iff]
    simp only [mappedRegs, List.length_cons, List.length_nil]
    omega

theorem idx_lt (r : Reg) : r.idx.toNat < 0x15 := by cases r <;> decide

theorem idx_inj {r r' : Reg} (h : r.idx = r'.idx) : r = r' := by
  have := congrArg Reg.ofIdx h
  simpa using this

theorem ofIdx_eq_some {idx : RegIndex} {r : Reg} : Reg.ofIdx idx = some r ↔ idx = r.idx := by
  constructor
  · intro h
    rcases ofIdx_cases idx with ⟨r', rfl⟩ | ⟨-, h'⟩
    · simp only [ofIdx_idx, Option.some.injEq] at h
      rw [h]
    · rw [h'] at h
      cases h
  · rintro rfl
    exact ofIdx_idx r

@[simp] theorem hostRead_idx (s : State) (r : Reg) : hostRead s r.idx = readReg Config.asmCap s r := by
  simp [hostRead]

theorem hostRead_unmapped (s : State) {idx : RegIndex} (h : 0x15 ≤ idx.toNat) : hostRead s idx = 0 := by
  rcases ofIdx_cases idx with ⟨r, rfl⟩ | ⟨-, h'⟩
  · have := idx_lt r
    omega
  · simp [hostRead, h']

@[simp] theorem hostWrite_idx (r : Reg) (v : Word) (s : State) : hostWrite r.idx v s = writeReg r v s := by
  simp [hostWrite]

theorem hostWrite_unmapped {idx : RegIndex} (h : 0x15 ≤ idx.toNat) (v : Word) (s : State) : hostWrite idx v s = s := by
  rcases ofIdx_cases idx with ⟨r, rfl⟩ | ⟨-, h'⟩
  · have := idx_lt r
    omega
  · simp [hostWrite, h']

/-- Reading depends on the block's registers, flags and buffer, not on the model's own fields. -/
theorem readReg_own_fields (cap : Nat) (s : State) (inputs : List HostInput) (values : List Word)
    (r : Reg) :
    readReg cap { s with pending := inputs, returned := values } r = readReg cap s r := by
  cases r <;> rfl

theorem hostRead_congr {s t : State} (h : ∀ r, readReg Config.asmCap s r = readReg Config.asmCap t r)
    (idx : RegIndex) : hostRead s idx = hostRead t idx := by
  rcases ofIdx_cases idx with ⟨r, rfl⟩ | ⟨h', -⟩
  · rw [hostRead_idx, hostRead_idx, h]
  · rw [hostRead_unmapped _ h', hostRead_unmapped _ h']

/-- A STATUS word's fields, added up. -/
theorem statusBits_toNat : ∀ (e : BitVec 4) (a b c : Bool),
    (0#25 ++ BitVec.ofBool c ++ BitVec.ofBool b ++ BitVec.ofBool a ++ e : Word).toNat =
      e.toNat + (if a then 16 else 0) + (if b then 32 else 0) + (if c then 64 else 0) := by
  decide

/-! ## Host writes -/

/-- A host write reaches one stored register at most: reading any register after it. -/
theorem readReg_writeReg (cap : Nat) (r r' : Reg) (v : Word) (s : State) :
    readReg cap (writeReg r v s) r' =
      if r' = r ∧ r.access = .readWrite then (if r = .desc then descMask v else v) else readReg cap s r' := by
  cases r <;> cases r' <;> rfl

/-- What a host write never touches (R62). -/
theorem writeReg_keeps (r : Reg) (v : Word) (s : State) :
    (writeReg r v s).err = s.err ∧ (writeReg r v s).trunc = s.trunc ∧ (writeReg r v s).buf = s.buf ∧
    (writeReg r v s).pending = s.pending ∧ (writeReg r v s).returned = s.returned := by
  cases r <;> exact ⟨rfl, rfl, rfl, rfl, rfl⟩

@[simp] theorem writeReg_pending (r : Reg) (v : Word) (s : State) : (writeReg r v s).pending = s.pending :=
  (writeReg_keeps r v s).2.2.2.1

theorem hostWrite_cases (idx : RegIndex) (v : Word) (s : State) :
    (∃ r : Reg, idx = r.idx ∧ hostWrite idx v s = writeReg r v s) ∨ (0x15 ≤ idx.toNat ∧ hostWrite idx v s = s) := by
  rcases ofIdx_cases idx with ⟨r, rfl⟩ | ⟨h, -⟩
  · exact .inl ⟨r, rfl, hostWrite_idx r v s⟩
  · exact .inr ⟨h, hostWrite_unmapped h v s⟩

/-! ## Commands -/

/-- Everything PUSH can do. -/
theorem pushByte_cases (cap : Nat) (b : Byte) (s : State) :
    (s.buf.length = cap ∧ pushByte cap b s = raise .bufferFull s) ∨
    (s.buf.length ≠ cap ∧ pushByte cap b s = finishOk (appendByte b s)) := by
  unfold pushByte
  by_cases h : s.buf.length = cap
  · exact .inl ⟨h, if_pos h⟩
  · exact .inr ⟨h, if_neg h⟩

/-- Everything POP can do. -/
theorem execPop_cases (s : State) :
    (s.buf.length < 12 ∧ execPop s = .next (raise .noFrame s)) ∨
    (12 ≤ s.buf.length ∧ execPop s = .next (finishOk (takeFrame s))) := by
  unfold execPop
  by_cases h : s.buf.length < frameBytes
  · exact .inl ⟨h, if_pos h⟩
  · exact .inr ⟨by simpa [frameBytes] using h, if_neg h⟩

theorem descInvalid_iff (s : State) : descInvalid s = true ↔ descStart s = 0 ∨ descLength s = 0 := by
  simp [descInvalid]

/-- Everything EXTBYTE can do, in the order of R190. -/
theorem execExtbyte_cases (s : State) :
    ((descStart s = 0 ∨ descLength s = 0) ∧ execExtbyte s = .next (raise .invalidDescriptor s)) ∨
    (descStart s ≠ 0 ∧ descLength s ≠ 0 ∧ 8 < descStart s - 1 + descLength s ∧
      execExtbyte s = .next (raise .dataTooShort s)) ∨
    (descStart s ≠ 0 ∧ descLength s ≠ 0 ∧ descStart s - 1 + descLength s ≤ 8 ∧
      execExtbyte s = .next (finishOk (writeExtract .extbyte
        (gatherBytes s.dataLo s.dataHi (descStart s - 1) (descLength s)) false s))) := by
  unfold execExtbyte
  by_cases hd : descStart s = 0 ∨ descLength s = 0
  · exact .inl ⟨hd, if_pos ((descInvalid_iff s).mpr hd)⟩
  · have hn : ¬ descInvalid s = true := fun h => hd ((descInvalid_iff s).mp h)
    have ⟨h0, h1⟩ := not_or.mp hd
    rw [if_neg hn]
    by_cases hs : 8 < descStart s - 1 + descLength s
    · exact .inr (.inl ⟨h0, h1, hs, if_pos hs⟩)
    · exact .inr (.inr ⟨h0, h1, by omega, if_neg hs⟩)

/-- Everything EXTBIT can do. -/
theorem execExtbit_cases (s : State) :
    ((descStart s = 0 ∨ descLength s = 0) ∧ execExtbit s = .next (raise .invalidDescriptor s)) ∨
    (descStart s ≠ 0 ∧ descLength s ≠ 0 ∧
      execExtbit s = .next (finishOk (writeExtract .extbit (bitField s.dataLo s.dataHi (descStart s) (descLength s)).1
        (truncatedFlag (bitField s.dataLo s.dataHi (descStart s) (descLength s)).2) s))) := by
  unfold execExtbit
  by_cases hd : descStart s = 0 ∨ descLength s = 0
  · exact .inl ⟨hd, if_pos ((descInvalid_iff s).mpr hd)⟩
  · have hn : ¬ descInvalid s = true := fun h => hd ((descInvalid_iff s).mp h)
    have ⟨h0, h1⟩ := not_or.mp hd
    exact .inr ⟨h0, h1, if_neg hn⟩

/-- What a successful extract leaves in RAW and SCALED, read back whole. -/
theorem writeExtract_values (i : Instr) (raw : DWord) (b : Bool) (s : State) :
    rawValue (finishOk (writeExtract i raw b s)) = raw ∧
    scaledValue (finishOk (writeExtract i raw b s)) = scaledPattern i raw s := by
  simp [rawValue, scaledValue]

/-- SCALED is the pattern the rules fix, or some NaN. -/
theorem scaledPattern_cases (i : Instr) (raw : DWord) (s : State) :
    scale raw (resolution s) (offset s) = some (scaledPattern i raw s) ∨
    (scale raw (resolution s) (offset s) = none ∧ isNan (scaledPattern i raw s) = true) := by
  unfold scaledPattern
  cases scale raw (resolution s) (offset s) with
  | some p => exact .inl rfl
  | none => exact .inr ⟨rfl, isNan_nanPattern _⟩

/-- Every command has a next state, and none touches the host's inputs or what its reads returned. -/
theorem exec_next (i : Instr) (s : State) :
    ∃ t, exec i s = .next t ∧ t.pending = s.pending ∧ t.returned = s.returned := by
  cases i with
  | decomp => exact ⟨_, rfl, rfl, rfl⟩
  | extbyte =>
    rcases execExtbyte_cases s with ⟨-, h⟩ | ⟨-, -, -, h⟩ | ⟨-, -, -, h⟩ <;> exact ⟨_, h, rfl, rfl⟩
  | extbit =>
    rcases execExtbit_cases s with ⟨-, h⟩ | ⟨-, -, h⟩ <;> exact ⟨_, h, rfl, rfl⟩
  | push b =>
    refine ⟨_, rfl, ?_⟩
    rcases pushByte_cases Config.asmCap b s with ⟨-, h⟩ | ⟨-, h⟩ <;> rw [h] <;> exact ⟨rfl, rfl⟩
  | pop =>
    rcases execPop_cases s with ⟨-, h⟩ | ⟨-, h⟩ <;> exact ⟨_, h, rfl, rfl⟩
  | srst => exact ⟨_, rfl, rfl, rfl⟩

/-! ## The step -/

@[simp] theorem commandOf_cmd (v : Word) : commandOf (.write 0x00 v) = some v := rfl

theorem commandOf_write {idx : RegIndex} (h : idx ≠ 0x00) (v : Word) : commandOf (.write idx v) = none := by
  have : Reg.ofIdx idx ≠ some .cmd := fun h' => h (ofIdx_eq_some.mp h')
  simp [commandOf, this]

theorem step_idle {s : State} (h : s.pending = []) : step s = .next s := by
  simp [step, h]

theorem step_command {s : State} {v : Word} {rest : List HostInput} (h : s.pending = .write 0x00 v :: rest) :
    step s = runCommand v (takeInput rest s) := by
  unfold step
  rw [h]
  rfl

theorem step_transact {s : State} {x : HostInput} {rest : List HostInput} (h : s.pending = x :: rest)
    (hx : commandOf x = none) : step s = .next (transact x (takeInput rest s)) := by
  simp [step, h, hx]

theorem runCommand_ok {v : Word} {i : Instr} (h : decode v = .ok i) (s : State) : runCommand v s = exec i s := by
  simp [runCommand, h]

theorem runCommand_error {v : Word} {r : Reject} (h : decode v = .error r) (s : State) :
    runCommand v s = .next (raise .illegalCommand s) := by
  simp [runCommand, h, illegalCommand]

/-! ## Runs -/

theorem run_zero (s : State) : Host.Core.run Sys2Proof.core 0 s = .next s := rfl

/-- A run goes on from the state its first step answers. -/
theorem run_succ (n : Nat) {s t : State} (h : step s = .next t) :
    Host.Core.run Sys2Proof.core (n + 1) s = Host.Core.run Sys2Proof.core n t := by
  have h' : Sys2Proof.core.step s = .next t := h
  simp only [Host.Core.run, h']

/-- A run whose first input writes a register that holds a value. -/
theorem run_write (n : Nat) {r : Reg} (hr : r ≠ .cmd) {v : Word} {rest : List HostInput} {s : State}
    (h : s.pending = .write r.idx v :: rest) :
    Host.Core.run Sys2Proof.core (n + 1) s = Host.Core.run Sys2Proof.core n (writeReg r v (takeInput rest s)) := by
  have hi : r.idx ≠ 0x00 := fun h' => hr (idx_inj (r' := .cmd) h')
  have hs : step s = .next (hostWrite r.idx v (takeInput rest s)) := step_transact h (commandOf_write hi v)
  rw [hostWrite_idx] at hs
  exact run_succ n hs

/-- Every step is one of these. -/
theorem step_cases (s : State) :
    (s.pending = [] ∧ step s = .next s) ∨
    (∃ v rest i, s.pending = .write 0x00 v :: rest ∧ decode v = .ok i ∧ step s = exec i (takeInput rest s)) ∨
    (∃ v rest r, s.pending = .write 0x00 v :: rest ∧ decode v = .error r ∧
      step s = .next (raise .illegalCommand (takeInput rest s))) ∨
    (∃ idx v rest, idx ≠ 0x00 ∧ s.pending = .write idx v :: rest ∧
      step s = .next (hostWrite idx v (takeInput rest s))) ∨
    (∃ idx rest, s.pending = .read idx :: rest ∧
      step s = .next (returnToHost (hostRead (takeInput rest s) idx) (takeInput rest s))) ∨
    (∃ rest, s.pending = .reset :: rest ∧ step s = .next (resetBlock (takeInput rest s))) := by
  rcases hp : s.pending with _ | ⟨x, rest⟩
  · exact .inl ⟨rfl, step_idle hp⟩
  · right
    cases x with
    | write idx v =>
      by_cases h : idx = 0x00
      · subst h
        rcases hd : decode v with r | i
        · exact .inr (.inl ⟨v, rest, r, rfl, hd, by rw [step_command hp, runCommand_error hd]⟩)
        · exact .inl ⟨v, rest, i, rfl, hd, by rw [step_command hp, runCommand_ok hd]⟩
      · exact .inr (.inr (.inl ⟨idx, v, rest, h, rfl, step_transact hp (commandOf_write h v)⟩))
    | read idx => exact .inr (.inr (.inr (.inl ⟨idx, rest, rfl, step_transact hp rfl⟩)))
    | reset => exact .inr (.inr (.inr (.inr ⟨rest, rfl, step_transact hp rfl⟩)))

end Sys2Proof.Machine
end

