-- ==== Sys2Proof/Laws/PerInstr.lean ====
section
/-! SUPPORT. Facts about every command as syntax, one lemma per constructor. -/

/-- The word of a command selects the row of its own mnemonic in the opcode map, and no other row (R84). -/
def Sys2Proof.Laws.RowMatch.Statement (i : Sys2Proof.Instr) : Prop :=
  ∀ r ∈ Sys2Proof.opcodeRows, r.selects (Sys2Proof.encode i) = true ↔ r.mnemonic = i.mnemonic

theorem Sys2Proof.Laws.RowMatch.decomp : Sys2Proof.Laws.RowMatch.Statement .decomp := by
  unfold Sys2Proof.Laws.RowMatch.Statement
  decide

theorem Sys2Proof.Laws.RowMatch.extbyte : Sys2Proof.Laws.RowMatch.Statement .extbyte := by
  unfold Sys2Proof.Laws.RowMatch.Statement
  decide

theorem Sys2Proof.Laws.RowMatch.extbit : Sys2Proof.Laws.RowMatch.Statement .extbit := by
  unfold Sys2Proof.Laws.RowMatch.Statement
  decide

theorem Sys2Proof.Laws.RowMatch.push (b : Sys2Proof.Byte) : Sys2Proof.Laws.RowMatch.Statement (.push b) := by
  unfold Sys2Proof.Laws.RowMatch.Statement
  revert b
  decide +kernel

theorem Sys2Proof.Laws.RowMatch.pop : Sys2Proof.Laws.RowMatch.Statement .pop := by
  unfold Sys2Proof.Laws.RowMatch.Statement
  decide

theorem Sys2Proof.Laws.RowMatch.srst : Sys2Proof.Laws.RowMatch.Statement .srst := by
  unfold Sys2Proof.Laws.RowMatch.Statement
  decide
end

