-- ==== Sys2Proof/Tests/Slice0.lean ====
section
/-! SUPPORT. The model's own tests. Expected values are those of spec/95_test_vectors.md (the vector is named) or are
worked out by hand from the rule named; the last part shows, for each statement with hypotheses, states and operands
that meet them. -/

namespace Sys2Proof.Tests

open Sys2Proof.Machine

/-- The state an outcome goes on with. -/
def nextOf (o : Host.Outcome State Fault Refusal) : Option State :=
  match o with
  | .next t => some t
  | .fault _ => none
  | .refused _ => none

/-- A state far from reset, within the invariant: the payload of V-BYTE, the header of V-DEC row 3, a truncated extract
and a failed POP behind it, thirteen bytes buffered. -/
def busy : State :=
  { id := 0x0CF00400, dataLo := 0x67452301, dataHi := 0xEFCDAB89, desc := 0x0000043E
    resLo := 0, resHi := 0x3FF00000, offLo := 0, offHi := 0
    priority := 7, dataPage := 1, pduFormat := 0xAB, pduSpecific := 0xCD, sourceAddress := 0xEF, pgn := 0xABCD
    rawLo := 7, rawHi := 0, scaledLo := 0, scaledHi := 0x401C0000, err := 4, trunc := true
    buf := [0x18, 0xFE, 0xF1, 0x00, 1, 2, 3, 4, 5, 6, 7, 8, 9], pending := [], returned := [] }

/-- `busy` with the host about to do `inputs`. -/
def busyBefore (inputs : List HostInput) : State := { busy with pending := inputs }

/-- `busy` with another descriptor. -/
def busyDesc (d : Word) : State := { busy with desc := d }

/-- `busy` with a full buffer. -/
def busyFull : State := { busy with buf := List.replicate Config.asmCap 0 }

/-! ## Decoding: one word per command, bit by bit (R84), and the kinds of illegal word (R85, V-SYS rows 2 to 8) -/

theorem test_decode_decomp : decode 0b00000000000000000000000000000001 = .ok .decomp := by decide
theorem test_decode_extbyte : decode 0b00000000000000000000000000000010 = .ok .extbyte := by decide
theorem test_decode_extbit : decode 0b00000000000000000000000000000011 = .ok .extbit := by decide
theorem test_decode_push : decode 0b00000000000000000001100000000100 = .ok (.push 0x18) := by decide
theorem test_decode_pop : decode 0b00000000000000000000000000000101 = .ok .pop := by decide
theorem test_decode_srst : decode 0b00000000000000000000000000000110 = .ok .srst := by decide

theorem test_decode_op_out_of_range :
    decode 0x00000000 = .error .noSuchOp ∧ decode 0x00000007 = .error .noSuchOp ∧
    decode 0x000000FF = .error .noSuchOp := by decide

theorem test_decode_arg_or_zero_field_set :
    decode 0x00000105 = .error .argFieldSet ∧ decode 0x00000101 = .error .argFieldSet ∧
    decode 0x00010004 = .error .zeroFieldSet ∧ decode 0xFFFFFFFF = .error .zeroFieldSet := by decide

theorem test_encode_push : encode (.push 0xAA) = 0x0000AA04 := by decide

theorem test_table_word : decodeTableWord 32 0x00001804 = some (.push 0x18) ∧ decodeTableWord 32 7 = none := by decide

/-- From reset the step runs the very command `withFetchWord` places, PUSH included, whatever ASM_CAP is. -/
theorem test_first_step_runs_the_placed_word :
    (nextOf (step (State.reset.withFetchWord 32 0x00001804))).map (fun t => (t.buf, t.err, t.pending)) =
      some ([0x18], 0, []) := by decide

/-! ## Well-formedness: for each condition of R87 and R88 a line that breaks it -/

theorem test_wr_index_too_large : (AsmLine.wr 256 0).wellFormed = false := by decide
theorem test_wr_value_too_large : (AsmLine.wr 2 4294967296).wellFormed = false := by decide
theorem test_rd_index_too_large : (AsmLine.rd 256).wellFormed = false := by decide
theorem test_push_byte_too_large : (AsmLine.push 256).wellFormed = false := by decide
theorem test_setid_value_too_large : (AsmLine.setid 4294967296).wellFormed = false := by decide
theorem test_setdata_byte_too_large : (AsmLine.setdata 0 0 0 0 0 0 0 256).wellFormed = false := by decide
theorem test_setdesc_start_too_large : (AsmLine.setdesc 256 1).wellFormed = false := by decide
theorem test_setdesc_length_too_large : (AsmLine.setdesc 1 256).wellFormed = false := by decide
theorem test_pushn_empty : (AsmLine.pushn []).wellFormed = false := by decide
theorem test_pushn_byte_too_large : (AsmLine.pushn [0, 256]).wellFormed = false := by decide
theorem test_wr_at_the_bounds : (AsmLine.wr 255 4294967295).wellFormed = true := by decide

/-! ## DECOMP (V-DEC) -/

theorem test_decomp_all_fields :
    (nextOf (exec .decomp { State.reset with id := 0x1DABCDEF })).map
      (fun t => (t.priority, t.dataPage, t.pduFormat, t.pduSpecific, t.sourceAddress, t.pgn)) =
      some (7, 1, 0xAB, 0xCD, 0xEF, 0x0000ABCD) := by decide

theorem test_decomp_unused_bits_set :
    (nextOf (exec .decomp { State.reset with id := 0xECF00400 })).map
      (fun t => (t.priority, t.dataPage, t.pduFormat, t.pduSpecific, t.sourceAddress, t.pgn, t.id)) =
      some (3, 0, 0xF0, 0x04, 0x00, 0x0000F004, 0xECF00400) := by decide

/-! ## EXTBYTE (V-BYTE) and EXTBIT (V-BIT, V-SYS, conflict C1) -/

/-- V-BYTE row 4. -/
theorem test_extbyte_three_bytes :
    (nextOf (exec .extbyte (busyDesc 0x00000303))).map (fun t => (rawValue t, scaledValue t, t.trunc, t.err)) =
      some (0x0000000000896745, 0x41612CE8A0000000, false, 0) := by decide +kernel

/-- V-BYTE row 14: the whole outcome is the code; TRUNC and RAW stay. -/
theorem test_extbyte_invalid_before_too_short :
    (nextOf (exec .extbyte (busyDesc 0x0000C800))).map (fun t => (t.err, t.trunc, rawValue t)) =
      some (2, true, 7) := by decide

/-- V-BIT row 16: three bits gathered, neither shifted nor padded. -/
theorem test_extbit_truncated :
    (nextOf (exec .extbit (busyDesc 0x0000043E))).map (fun t => (rawValue t, scaledValue t, t.trunc, t.err)) =
      some (7, 0x401C000000000000, true, 0) := by decide +kernel

/-- The source's example under C1: start 7 gives 14, start 8 gives 15. -/
theorem test_extbit_start_is_one_indexed :
    (bitField 0x00000780 0 7 4).1 = 14 ∧ (bitField 0x00000780 0 8 4).1 = 15 := by decide

/-! ## Scaling (V-SCALE) -/

/-- Rows 5, 7 and 4: rounded product, negative offset. -/
theorem test_scale_rounding :
    scale 100 0x3FD999999999999A 0xC05F400000000000 = some 0xC055400000000000 ∧
    scale 3 0x3FB999999999999A 0 = some 0x3FD3333333333334 ∧
    scale 255 0x3FF0000000000000 0xC044000000000000 = some 0x406AE00000000000 := by decide +kernel

/-- Rows 8, 9 and 10: ties to even, no overflow of the conversion, a lost addend. -/
theorem test_scale_large :
    scale 9007199254740993 0x3FF0000000000000 0 = some 0x4340000000000000 ∧
    scale 0xFFFFFFFFFFFFFFFF 0x3FF0000000000000 0 = some 0x43F0000000000000 ∧
    scale 0xFFFFFFFFFFFFFFFF 0x3FE0000000000000 0x3FF0000000000000 = some 0x43E0000000000000 := by decide +kernel

/-- Rows 11 to 16: infinities, NaNs, signed zeros. -/
theorem test_scale_special :
    scale 1 0x7FF0000000000000 0 = some 0x7FF0000000000000 ∧ scale 0 0x7FF0000000000000 0 = none ∧
    scale 5 0x8000000000000000 0 = some 0 ∧
    scale 0 0xBFF0000000000000 0x8000000000000000 = some 0x8000000000000000 ∧
    scale 0 0x3FF0000000000000 0x8000000000000000 = some 0 ∧ scale 1 0x7FF8000000000000 0 = none := by decide +kernel

/-- By hand from R125 and V-SCALE row 7: the product 3 * 0.1 is rounded to 0x3FD3333333333334 before the sum, so OFF of
that magnitude and a negative sign leaves +0.0; a fused sum would leave what the rounding of the product dropped. -/
theorem test_scale_is_not_fused :
    scale 3 0x3FB999999999999A 0xBFD3333333333334 = some 0 := by decide +kernel

/-- The bounds of R126 and the smallest numbers of R127: one unit times one half is a tie and goes to zero. -/
theorem test_rounding_bounds :
    cvtU64 0xFFFFFFFFFFFFFC00 = 0x43F0000000000000 ∧ cvtU64 0xFFFFFFFFFFFFFBFF = 0x43EFFFFFFFFFFFFF ∧
    fmul 1 0x3FE0000000000000 = some 0 ∧ fmul 3 0x3FE0000000000000 = some 2 := by decide +kernel

/-- The decimals of V-SCALE rows 5 and 6 as `setres` and `setoff` write them. -/
theorem test_decimal_bits :
    (Decimal.mk false 4 1).bits = 0x3FD999999999999A ∧ (Decimal.mk false 3125 5).bits = 0x3FA0000000000000 ∧
    (Decimal.mk true 273 0).bits = 0xC071100000000000 := by decide +kernel

/-! ## PUSH and POP (V-ASM) -/

/-- Row 1. -/
theorem test_push_appends :
    (nextOf (exec (.push 0x18) State.reset)).map (fun t => (t.buf, t.err)) = some ([0x18], 0) := by decide

/-- Row 9, the capacity at its least. -/
theorem test_push_full_refuses :
    pushByte 24 0xAA { State.reset with buf := List.replicate 24 1 } =
      { State.reset with buf := List.replicate 24 1, err := 3 } := by decide

/-- Row 7 with the bytes of row 5: the frame leaves, the thirteenth byte stays. -/
theorem test_pop_frame :
    (nextOf (exec .pop busy)).map (fun t => (t.id, t.dataLo, t.dataHi, t.buf, t.err)) =
      some (0x18FEF100, 0x04030201, 0x08070605, [9], 0) := by decide

/-- Row 3: eleven bytes are no frame. -/
theorem test_pop_eleven_bytes :
    nextOf (exec .pop { busy with buf := List.replicate 11 1, err := 0 }) =
      some { busy with buf := List.replicate 11 1, err := 4 } := by decide

/-! ## SRST, illegal words and register access (V-SYS) -/

/-- Row 1. -/
theorem test_srst : nextOf (exec .srst busy) = some State.reset := by decide

/-- Row 5: nothing is popped. -/
theorem test_illegal_word :
    nextOf (step (busyBefore [.write 0x00 0x00000105])) = some { busy with err := 5 } := by decide

/-- Row 9. -/
theorem test_desc_high_half :
    (nextOf (Host.Core.run core 2 (busyBefore [.write 0x05 0xFFFF0102, .read 0x05]))).map (·.returned) =
      some [0x00000102] := by decide

/-- Row 10. -/
theorem test_read_only_registers :
    nextOf (Host.Core.run core 4 (busyBefore
      [.write 0x0F 0x1234, .write 0x10 1, .write 0x01 0xFF, .write 0x14 9])) = some busy := by decide

/-- Rows 11 and 12. -/
theorem test_reads_of_cmd_and_unmapped :
    nextOf (Host.Core.run core 4 (busyBefore [.read 0x00, .write 0x15 0xDEADBEEF, .read 0x15, .read 0xFF])) =
      some { busy with returned := [0, 0, 0] } := by decide

/-- V-ASM row 9's STATUS word, with the capacity at its least, and row 10's. -/
theorem test_status_word :
    statusWord 24 { State.reset with buf := List.replicate 24 1, err := 3 } = 0x63 ∧
    statusWord 24 { State.reset with buf := List.replicate 24 1 } = 0x60 ∧
    statusWord 256 { State.reset with buf := List.replicate 12 1 } = 0x20 ∧ statusWord 256 busy = 0x34 := by decide

/-! ## Witnesses: states and operands that meet the hypotheses of each statement -/

theorem busyFull_length : busyFull.buf.length = Config.asmCap := List.length_replicate ..

theorem busyFull_has_a_frame : 24 ≤ busyFull.buf.length := by
  rw [busyFull_length]
  exact asmCap_ge

theorem witness_ResetStateReadsAsTheTable :
    (busyBefore [.reset]).pending = .reset :: [] ∧
    (busyBefore [.write 0x00 0x00000006, .read 0x01]).pending = .write 0x00 0x00000006 :: [.read 0x01] := by decide

theorem witness_EveryStepKeepsTheStateInvariant :
    StateInv (busyBefore [.write 0x05 0xFFFFFFFF]) ∧
    step (busyBefore [.write 0x05 0xFFFFFFFF]) = .next { busy with desc := 0x0000FFFF } := by
  refine ⟨⟨?_, by decide, ?_, by decide, by decide, by decide, by decide, by decide, by decide, by decide, by decide⟩, rfl⟩
  · have := asmCap_ge
    have h : (busyBefore [.write 0x05 0xFFFFFFFF]).buf.length = 13 := rfl
    omega
  · rw [hostRead_idx, readReg, statusWord, statusBits_toNat]
    have h : (busyBefore [.write 0x05 0xFFFFFFFF]).err.toNat = 4 := rfl
    split <;> split <;> split <;> omega

/-- Both ways a state with TRUNC set is reached. -/
theorem witness_TruncIsSetOnlyByAnOverrunningExtbit :
    (nextOf (step (busyBefore [.write 0x00 0x00000003]))).map (·.trunc) = some true ∧
    (nextOf (step { busyBefore [.write 0x00 0x00000001] with trunc := true })).map (·.trunc) = some true := by
  decide +kernel

/-- The first and the last mapped index, the first and the last unmapped one, and two reads in a row. -/
theorem witness_HostReadReturnsTheRegisterMap :
    (busyBefore [.read 0x00]).pending = [.read 0x00] ∧ (busyBefore [.read 0x14]).pending = [.read 0x14] ∧
    (busyBefore [.read 0x15]).pending = [.read 0x15] ∧ (busyBefore [.read 0xFF]).pending = [.read 0xFF] ∧
    0x14 < (0x15 : RegIndex).toNat ∧ 0x14 < (0xFF : RegIndex).toNat ∧
    hostRead busy 0x00 = 0 ∧ hostRead busy 0x02 = 0x0CF00400 ∧ hostRead busy 0x13 = 0x401C0000 ∧
    hostRead busy 0x14 = 13 ∧ hostRead busy 0x15 = 0 ∧ hostRead busy 0xFF = 0 ∧
    (busyBefore [.read 0x01, .read 0x01]).pending = .read 0x01 :: .read 0x01 :: [] := by decide

/-- The bytes where the two words meet, and the ends of the payload. -/
theorem witness_PayloadBytesAreSlicesOfData :
    payloadByte busy 0 = 0x01 ∧ payloadByte busy 3 = 0x67 ∧ payloadByte busy 4 = 0x89 ∧ payloadByte busy 7 = 0xEF := by
  decide

/-- A legal word, an illegal word, and a register of each class at the ends of its range. -/
theorem witness_HostWriteActsByRegisterClass :
    decode 0x00000005 = .ok .pop ∧ decode 0x00000105 = .error .argFieldSet ∧
    step (busyBefore [.write 0x02 5]) = .next { busy with id := 5 } ∧
    step (busyBefore [.write 0x09 5]) = .next { busy with offHi := 5 } ∧
    step (busyBefore [.write 0x05 0xFFFF0102]) = .next { busy with desc := 0x00000102 } ∧
    step (busyBefore [.write 0x01 5]) = .next busy ∧ step (busyBefore [.write 0x0A 5]) = .next busy ∧
    step (busyBefore [.write 0x14 5]) = .next busy ∧ step (busyBefore [.write 0xFF 5]) = .next busy :=
  ⟨by decide, by decide, rfl, rfl, rfl, rfl, rfl, rfl, rfl⟩

/-- DESC written with the least and the greatest value. -/
theorem witness_DescTakesStartAndLength :
    step (busyBefore [.write 0x05 0]) = .next (busyDesc 0) ∧
    step (busyBefore [.write 0x05 0xFFFFFFFF]) = .next (busyDesc 0x0000FFFF) := ⟨rfl, rfl⟩

theorem witness_UnmappedIndicesAreInert :
    0x15 ≤ (0x15 : RegIndex).toNat ∧ 0x15 ≤ (0xFF : RegIndex).toNat ∧
    (busyBefore [.write 0x15 1]).pending = [.write 0x15 1] ∧ (busyBefore [.read 0xFF]).pending = [.read 0xFF] := by
  decide

/-- An empty and a full buffer are within the bound. -/
theorem witness_AsmCountIsTheBufferLength :
    State.reset.buf.length ≤ Config.asmCap ∧ busyFull.buf.length ≤ Config.asmCap ∧
    (busyBefore [.write 0x14 9]).pending = [.write 0x14 9] :=
  ⟨Nat.zero_le _, Nat.le_of_eq busyFull_length, rfl⟩

theorem witness_WordsSelectCommandsByMatchAndMask :
    decode 0x0000FF04 = .ok (.push 0xFF) ∧ decode 0x00000004 = .ok (.push 0x00) ∧
    (∃ r ∈ opcodeRows, (0x0000FF04 : Word) &&& r.mask = r.pattern) := by decide

/-- One word under each alternative of R85's list. -/
theorem witness_IllegalWordsOnlySetErr :
    (busyBefore [.write 0x00 0x00000007]).pending = [.write 0x00 0x00000007] ∧
    (∀ r ∈ opcodeRows, (0x00000000 : Word) &&& r.mask ≠ r.pattern) ∧
    (∀ r ∈ opcodeRows, (0x00000007 : Word) &&& r.mask ≠ r.pattern) ∧
    (∀ r ∈ opcodeRows, (0x00010004 : Word) &&& r.mask ≠ r.pattern) ∧
    (∀ r ∈ opcodeRows, (0x00000106 : Word) &&& r.mask ≠ r.pattern) := by decide

theorem witness_StepRunsTheDecodedCommand :
    (busyBefore [.write 0x00 0x0000AA04]).pending = [.write 0x00 0x0000AA04] ∧
    decode 0x0000AA04 = .ok (.push 0xAA) ∧ (Instr.push 0xAA).wellFormed = true := by decide

theorem witness_BlockIsIdleWithoutInput : State.reset.pending = [] ∧ busy.pending = [] := by decide

/-- A next state to speak of, and two continuations that differ. -/
theorem witness_TransactionsDoNotSeeLaterOnes :
    step { busy with pending := .write 0x02 7 :: [] } = .next { busy with id := 7 } := rfl

/-- DECOMP leaves RAW_LO, POP leaves PGN, and a host write of ID leaves PGN: none may change it. -/
theorem witness_RegistersChangeOnlyByTheirWriters :
    mayChange (actor (busyBefore [.write 0x00 0x00000001])) .rawLo = false ∧
    mayChange (actor (busyBefore [.write 0x00 0x00000005])) .pgn = false ∧
    mayChange (actor (busyBefore [.write 0x02 7])) .pgn = false ∧
    step (busyBefore [.write 0x02 7]) = .next { busy with id := 7 } := ⟨by decide, by decide, by decide, rfl⟩

/-- RAW changes by EXTBIT, by SRST and by the reset input. -/
theorem witness_ResultsAreWrittenOnlyBySuccessfulExtracts :
    (nextOf (step { busyBefore [.write 0x00 0x00000003] with desc := 0x00000C0D })).map rawValue = some 0x452 ∧
    (nextOf (step (busyBefore [.write 0x00 0x00000006]))).map rawValue = some 0 ∧
    (nextOf (step (busyBefore [.reset]))).map rawValue = some 0 ∧ rawValue busy = 7 := by decide +kernel

theorem witness_BufferChangesOnlyByPushPopOrReset :
    actor (busyBefore [.write 0x00 0x00000001]) = .command .decomp ∧
    actor (busyBefore [.write 0x02 7]) = .hostWrite 0x02 ∧
    step (busyBefore [.write 0x02 7]) = .next { busy with id := 7 } := ⟨by decide, by decide, rfl⟩

theorem witness_NoCommandReadsAFlag : exec .srst busy = .next State.reset := rfl

/-- A DECOMP, and a POP with eleven bytes, before which another content of the same length could stand. -/
theorem witness_BufferedBytesAreHiddenUntilPop :
    (List.replicate 13 (0 : Byte)).length = busy.buf.length ∧
    pendingCommand (busyBefore [.write 0x00 0x00000001]) = some .decomp ∧
    pendingCommand (busyBefore [.write 0x00 0x00000005]) = some .pop ∧
    ¬ 12 ≤ ({ busy with buf := List.replicate 11 0 } : State).buf.length ∧
    (nextOf (step (busyBefore [.write 0x00 0x00000001]))).isSome = true := by decide

/-- Two identifiers that differ in all four unused bits. -/
theorem witness_DecompIgnoresTheUnusedIdBits :
    (0xEEF00400 : Word) &&& 0x1DFFFFFF = busy.id &&& 0x1DFFFFFF ∧ (0xEEF00400 : Word) ≠ busy.id := by decide

/-- The greatest and the least field values. -/
theorem witness_HeaderRoundTrip :
    ({ busy with id := 0x1DFFFFFF } : State).id = compose 7 1 255 255 255 ∧
    ({ busy with id := 0 } : State).id = compose 0 0 0 0 0 := by decide

theorem witness_InvalidDescriptorsAreRejectedFirst :
    descStart (busyDesc 0x0000C800) = 0 ∧ descLength (busyDesc 0x00000001) = 0 ∧
    descLength (busyDesc 0x0000C800) ≠ 0 ∧ descStart (busyDesc 0x00000001) ≠ 0 := by decide

/-- The clauses of EXTBYTE on both sides of the payload's end (V-BYTE rows 2, 6, 7, 8). -/
theorem witness_ExtbyteGathersBytesLittleEndian :
    descStart (busyDesc 0x00000108) - 1 + descLength (busyDesc 0x00000108) = 8 ∧
    descStart (busyDesc 0x00000801) - 1 + descLength (busyDesc 0x00000801) = 8 ∧
    8 < descStart (busyDesc 0x00000208) - 1 + descLength (busyDesc 0x00000208) ∧
    8 < descStart (busyDesc 0x00000109) - 1 + descLength (busyDesc 0x00000109) ∧
    descStart (busyDesc 0x00000108) ≠ 0 ∧ descLength (busyDesc 0x00000208) ≠ 0 ∧
    descStart (busyDesc 0x00000100) = 0 ∧ descLength (busyDesc 0x00000001) = 0 := by decide

/-- EXTBIT at the payload's last bit, one past it, and with one bit too many (V-BIT rows 17, 19, 11). -/
theorem witness_ExtbitGathersTheBitsThereAre :
    descStart (busyDesc 0x00000140) - 1 = 63 ∧ descLength (busyDesc 0x00000140) = 1 ∧
    descStart (busyDesc 0x00000141) - 1 = 64 ∧ descLength (busyDesc 0x00000141) = 1 ∧
    descStart (busyDesc 0x00004101) = 1 ∧ descLength (busyDesc 0x00004101) = 65 ∧
    (bitField busy.dataLo busy.dataHi 64 1) = (1, 0) ∧ (bitField busy.dataLo busy.dataHi 65 1) = (0, 1) := by decide

/-- The whole payload, and its last byte. -/
theorem witness_ByteAlignedBitFieldsAreByteFields :
    descStart (busyDesc 0x00000801) = 0 + 1 ∧ descLength (busyDesc 0x00000801) = 8 ∧
    descStart (busyDesc 0x00004001) = 8 * 0 + 1 ∧ descLength (busyDesc 0x00004001) = 8 * 8 ∧
    descStart (busyDesc 0x00000108) = 7 + 1 ∧ descLength (busyDesc 0x00000108) = 1 ∧
    descStart (busyDesc 0x00000839) = 8 * 7 + 1 ∧ descLength (busyDesc 0x00000839) = 8 * 1 := by decide

/-- Two states with the same operands and different ID, buffer, RAW and flags; one descriptor that fails and one that
does not. -/
theorem witness_ExtractsArePureInTheirOperands :
    ((nextOf (exec .extbit busy)).map (·.err)) = some 0 ∧
    ((nextOf (exec .extbyte (busyDesc 0x00000208))).map (·.err)) = some 1 ∧
    ({ busy with id := 0, buf := [], rawLo := 1, err := 0, trunc := false } : State) ≠ busy := by decide +kernel

/-- Fields within DESC's reach and beyond it. -/
theorem witness_ClampedDescriptorsGiveTheSameOutcome :
    clampField 255 = 255 ∧ clampField 256 = 255 ∧ clampField 1 = 1 ∧
    (bitField busy.dataLo busy.dataHi 1 300) = (0xEFCDAB8967452301, 236) := by decide

/-- 3 * 2^62 has two significant bits; the overflow clause begins at 2^64 - 2^10. -/
theorem witness_ConversionIsNearestEvenAndExactWhenItCanBe :
    3 < 2 ^ 53 ∧ (0xC000000000000000 : DWord).toNat = 3 * 2 ^ 62 ∧
    2 ^ 64 - 2 ^ 10 ≤ (0xFFFFFFFFFFFFFC00 : DWord).toNat := by decide

/-- 1.5 and -2.0, whose product is finite; the largest finite value, whose square is not. -/
theorem witness_ProductsAreCorrectlyRounded :
    fpValue 0x3FF8000000000000 = .finite false (3 * 2 ^ 1073) ∧
    fpValue 0xC000000000000000 = .finite true (2 ^ 1075) ∧
    3 * 2 ^ 1073 * 2 ^ 1075 < unitsPerOne * overflowUnits ∧
    fpValue 0x7FEFFFFFFFFFFFFF = .finite false ((2 ^ 53 - 1) * 2 ^ 2045) ∧
    unitsPerOne * overflowUnits ≤ (2 ^ 53 - 1) * 2 ^ 2045 * ((2 ^ 53 - 1) * 2 ^ 2045) := by decide +kernel

/-- 1.5 and -2.0, whose sum is finite and not zero; the largest finite value, whose double is not finite. -/
theorem witness_SumsAreCorrectlyRounded :
    fpValue 0x3FF8000000000000 = .finite false (3 * 2 ^ 1073) ∧
    fpValue 0xC000000000000000 = .finite true (2 ^ 1075) ∧
    signedUnits false (3 * 2 ^ 1073) + signedUnits true (2 ^ 1075) ≠ 0 ∧
    (signedUnits false (3 * 2 ^ 1073) + signedUnits true (2 ^ 1075)).natAbs < 1 * overflowUnits ∧
    fpValue 0x7FEFFFFFFFFFFFFF = .finite false ((2 ^ 53 - 1) * 2 ^ 2045) ∧
    1 * overflowUnits ≤ (signedUnits false ((2 ^ 53 - 1) * 2 ^ 2045) +
      signedUnits false ((2 ^ 53 - 1) * 2 ^ 2045)).natAbs := by decide +kernel

/-- One set of operands for each row: NaN, the infinities of both signs, zeros, a nonzero offset, an exact zero sum. -/
theorem witness_SpecialValuesOfScaling :
    isNan 0x7FF8000000000000 = true ∧ fpValue 0x7FF0000000000000 = .infinity false ∧
    fmul (cvtU64 1) 0x7FF0000000000000 = some 0x7FF0000000000000 ∧ fpValue 0xFFF0000000000000 = .infinity (!false) ∧
    (1 : DWord) ≠ 0 ∧ fpValue 0 = .finite false 0 ∧ fpValue 0x8000000000000000 = .finite true 0 ∧
    fpValue 1 = .finite false 1 ∧ fpValue 0x8000000000000001 = .finite true 1 ∧
    signedUnits false 1 + signedUnits true 1 = 0 := by decide +kernel

/-- A NaN of either sign, and values next to the NaNs. -/
theorem witness_FreeNanPatternsAreExactlyTheNans :
    isNan 0x7FF0000000000001 = true ∧ isNan 0xFFFFFFFFFFFFFFFF = true ∧ isNan 0x7FF0000000000000 = false ∧
    isNan 0x7FEFFFFFFFFFFFFF = false := by decide

theorem witness_PushAppendsOrRefusesTheByte :
    State.reset.buf.length ≠ Config.asmCap ∧ busyFull.buf.length = Config.asmCap := by
  refine ⟨?_, busyFull_length⟩
  have := asmCap_ge
  have h : State.reset.buf.length = 0 := rfl
  omega

theorem witness_PopDeliversTheOldestFrame :
    ({ busy with buf := List.replicate 11 0 } : State).buf.length < 12 ∧
    [0x18, 0xFE, 0xF1, 0x00, 1, 2, 3, 4, 5, 6, 7, (8 : Byte)].length = 12 ∧
    busy.buf = [0x18, 0xFE, 0xF1, 0x00, 1, 2, 3, 4, 5, 6, 7, 8] ++ [9] := by decide

/-- The thirteen bytes of `busy`, pushed from an empty buffer with a read between them, then a POP and another. -/
def streamInputs : List HostInput :=
  busy.buf.map (fun b => issue (.push b)) ++ [.read 0x01, issue .pop, issue .pop]

theorem witness_FramesDoNotDependOnChunking :
    ({ busy with buf := [], pending := streamInputs } : State).buf = [] ∧
    (∀ x ∈ streamInputs.take 16, endsStream x = false) ∧
    ((nextOf (Host.Core.run core 16 { busy with buf := [], pending := streamInputs })).map (fun t => (t.buf, t.id))) =
      some ([9], 0x18FEF100) ∧
    (streamOf 16 { busy with buf := [], pending := streamInputs }) = (busy.buf, [busy.buf.take 12]) := by decide +kernel

theorem witness_FullBufferAlwaysMakesRoom : busyFull.buf.length = Config.asmCap := busyFull_length

theorem witness_BothResetsLeaveTheResetState :
    (busyBefore [.reset]).pending = [.reset] ∧
    (busyBefore [.write 0x00 0x00000006]).pending = [.write 0x00 0x00000006] ∧
    busy.block ≠ State.reset.block := by decide

/-- A word for each of the six codes (BufferFull in `busyFull`). -/
theorem witness_EveryCommandEndsWithItsResultCode :
    expectedCode 0x00000001 busy = 0 ∧ expectedCode 0x00000002 (busyDesc 0x00000208) = 1 ∧
    expectedCode 0x00000003 (busyDesc 0) = 2 ∧ expectedCode 0x0000AA04 busyFull = 3 ∧
    expectedCode 0x00000005 State.reset = 4 ∧ expectedCode 0x00000000 busy = 5 := by
  refine ⟨by decide, by decide, by decide, ?_, by decide, by decide⟩
  have h : decode 0x0000AA04 = .ok (.push 0xAA) := by decide
  simp only [expectedCode, h, busyFull_length, if_true]

theorem witness_FailedCommandsChangeOnlyErr :
    step (busyBefore [.write 0x00 0x00000000]) = .next { busy with err := 5 } ∧ (5 : BitVec 4) ≠ 0 := ⟨rfl, by decide⟩

/-- POP with nothing buffered, then an illegal word. -/
theorem witness_FailingSequencesLeaveOnlyTheLastCode :
    ((nextOf (Host.Core.run core 1 (State.reset.withFetchWord 32 5))).map (·.err)) = some 4 ∧
    ((nextOf (Host.Core.run core 2 { State.reset with pending := [5, 0].map (HostInput.write 0x00) })).map (·.err)) =
      some 5 ∧
    ((nextOf (Host.Core.run core 1 { State.reset with pending := [5, 0].map (HostInput.write 0x00) })).map (·.err)) =
      some 4 := by decide

/-- The first and the last of the six halves; EXTBIT at the last bit and past it, EXTBYTE up to the payload's end. -/
theorem witness_HalfWrittenPairsAreUsedAsTheyStand :
    Reg.dataLo ∈ [Reg.dataLo, .dataHi, .resLo, .resHi, .offLo, .offHi] ∧
    Reg.offHi ∈ [Reg.dataLo, .dataHi, .resLo, .resHi, .offLo, .offHi] ∧
    (busyBefore [.write Reg.dataLo.idx 5, .write 0x00 0x00000003]).pending =
      .write Reg.dataLo.idx 5 :: .write 0x00 (encode .extbit) :: [] ∧
    (busyBefore [.write Reg.offHi.idx 5, .write 0x00 0x00000002]).pending =
      .write Reg.offHi.idx 5 :: .write 0x00 (encode .extbyte) :: [] ∧
    descStart (busyDesc 0x00000140) = 64 ∧ descStart (busyDesc 0x00000141) = 65 ∧
    descLength (busyDesc 0x00000141) ≠ 0 ∧
    descStart (busyDesc 0x00000108) - 1 + descLength (busyDesc 0x00000108) = 8 := by decide

/-- A definition of each kind, one of them beyond what DESC can hold. -/
theorem witness_ConveyedDefinitionsReachTheOperands :
    (busyBefore (SpnDefinition.convey ⟨.bytePosition 300 2, 0x3FC0000000000000, 0⟩)).pending =
      SpnDefinition.convey ⟨.bytePosition 300 2, 0x3FC0000000000000, 0⟩ ++ [] ∧
    (busyBefore (SpnDefinition.convey ⟨.bitPosition 13 12, 0x3FC0000000000000, 0⟩ ++ [.read 0x10])).pending =
      SpnDefinition.convey ⟨.bitPosition 13 12, 0x3FC0000000000000, 0⟩ ++ [.read 0x10] := by decide

/-- Every line with a condition, at its bounds; three bytes pushed with room for them. -/
theorem witness_AssemblerLinesDoWhatTheyName :
    (AsmLine.wr 255 4294967295).wellFormed = true ∧ (AsmLine.rd 255).wellFormed = true ∧
    (AsmLine.setid 4294967295).wellFormed = true ∧
    (AsmLine.setdata 0 1 2 3 4 5 6 255).wellFormed = true ∧ (AsmLine.setdesc 255 255).wellFormed = true ∧
    (AsmLine.pushn [0, 1, 255]).wellFormed = true ∧
    (busyBefore ((AsmLine.setid 4294967295).expand ++ [])).pending = (AsmLine.setid 4294967295).expand ++ [] ∧
    (busyBefore ((AsmLine.setdata 0 1 2 3 4 5 6 255).expand ++ [])).pending =
      (AsmLine.setdata 0 1 2 3 4 5 6 255).expand ++ [] ∧
    (busyBefore ((AsmLine.setdesc 255 255).expand ++ [])).pending = (AsmLine.setdesc 255 255).expand ++ [] ∧
    (busyBefore ((AsmLine.setres ⟨false, 4, 1⟩).expand ++ [])).pending = (AsmLine.setres ⟨false, 4, 1⟩).expand ++ [] ∧
    (busyBefore ((AsmLine.setoff ⟨true, 273, 0⟩).expand ++ [])).pending = (AsmLine.setoff ⟨true, 273, 0⟩).expand ++ [] ∧
    (busyBefore ((AsmLine.pushn [0, 1, 255]).expand ++ [.read 0x14])).pending =
      (AsmLine.pushn [0, 1, 255]).expand ++ [.read 0x14] ∧
    (busyBefore []).buf.length + [0, 1, 255].length ≤ Config.asmCap ∧ 255 < 256 := by
  refine ⟨by decide, by decide, by decide, by decide, by decide, by decide, rfl, rfl, rfl, rfl, rfl, rfl, ?_, by decide⟩
  have := asmCap_ge
  have h : (busyBefore []).buf.length = 13 := rfl
  simp only [h, List.length_cons, List.length_nil]
  omega

/-- RES 0.125 and OFF -0.0 with a finite product, and RES infinite with raw 0, whose product is a NaN. -/
theorem witness_ScalingIsTheRoundedProductPlusTheOffset :
    fpValue 0x3FC0000000000000 = .finite false (2 ^ 1071) ∧ fpValue 0x8000000000000000 = .finite true 0 ∧
    fmul (cvtU64 1000) 0x3FC0000000000000 = some 0x405F400000000000 ∧
    fpValue 0x405F400000000000 = .finite false (125 * 2 ^ 1074) ∧
    fmul (cvtU64 0) 0x7FF0000000000000 = none := by decide +kernel

end Sys2Proof.Tests
end

section
/-! The scope of the model: what a step does when the host asks for nothing (R5). -/

namespace Sys2Proof.Proofs.Scope
open Sys2Proof.Machine

/-- Settles O16: the step's law for an empty queue of host inputs. -/
theorem blockIsIdleWithoutInput : Obligations.BlockIsIdleWithoutInput :=
  fun _ hpending => step_idle hpending

end Sys2Proof.Proofs.Scope
end

section
/-! Rules about the state (10_state.md): what a command and a step can do to it, which registers a host read sees
change, what each operation keeps of the state invariant, what no command or step reads, and the payload and the
descriptor as numbers. -/

namespace Sys2Proof.Machine

/-! ## The commands, branch by branch -/

theorem exec_extbyte_invalid {s : State} (h : descStart s = 0 ∨ descLength s = 0) :
    exec .extbyte s = .next (raise .invalidDescriptor s) :=
  if_pos ((descInvalid_iff s).mpr h)

theorem exec_extbyte_short {s : State} (h₀ : descStart s ≠ 0) (h₁ : descLength s ≠ 0)
    (h : 8 < descStart s - 1 + descLength s) : exec .extbyte s = .next (raise .dataTooShort s) := by
  rcases execExtbyte_cases s with ⟨h', -⟩ | ⟨-, -, -, hs⟩ | ⟨-, -, h', -⟩
  · omega
  · exact hs
  · omega

theorem exec_extbyte_ok {s : State} (h₀ : descStart s ≠ 0) (h₁ : descLength s ≠ 0)
    (h : descStart s - 1 + descLength s ≤ 8) :
    exec .extbyte s = .next (finishOk (writeExtract .extbyte
      (gatherBytes s.dataLo s.dataHi (descStart s - 1) (descLength s)) false s)) := by
  rcases execExtbyte_cases s with ⟨h', -⟩ | ⟨-, -, h', -⟩ | ⟨-, -, -, hs⟩
  · omega
  · omega
  · exact hs

theorem exec_extbit_invalid {s : State} (h : descStart s = 0 ∨ descLength s = 0) :
    exec .extbit s = .next (raise .invalidDescriptor s) :=
  if_pos ((descInvalid_iff s).mpr h)

theorem exec_extbit_ok {s : State} (h₀ : descStart s ≠ 0) (h₁ : descLength s ≠ 0) :
    exec .extbit s = .next (finishOk (writeExtract .extbit (bitField s.dataLo s.dataHi (descStart s) (descLength s)).1
      (truncatedFlag (bitField s.dataLo s.dataHi (descStart s) (descLength s)).2) s)) := by
  rcases execExtbit_cases s with ⟨h', -⟩ | ⟨-, -, hs⟩
  · omega
  · exact hs

theorem exec_push_full {s : State} {b : Byte} (h : s.buf.length = Config.asmCap) :
    exec (.push b) s = .next (raise .bufferFull s) :=
  congrArg Host.Outcome.next (if_pos h)

theorem exec_push_room {s : State} {b : Byte} (h : s.buf.length ≠ Config.asmCap) :
    exec (.push b) s = .next (finishOk (appendByte b s)) :=
  congrArg Host.Outcome.next (if_neg h)

theorem exec_pop_short {s : State} (h : s.buf.length < 12) : exec .pop s = .next (raise .noFrame s) :=
  if_pos h

theorem exec_pop_frame {s : State} (h : 12 ≤ s.buf.length) : exec .pop s = .next (finishOk (takeFrame s)) :=
  if_neg (Nat.not_lt.mpr h)

/-! ## The bits EXTBIT still wants when it stops -/

/-- EXTBIT's loop takes every bit from its place up to bit 63, as far as it wants them (R123). -/
theorem gatherBits_remaining (lo hi : Word) (fuel byteIdx bitOff filled remaining : Nat) (raw : DWord)
    (hfuel : 8 ≤ byteIdx + fuel) (hoff : bitOff < 8) :
    (gatherBits lo hi fuel byteIdx bitOff filled remaining raw).2 = remaining - (64 - (8 * byteIdx + bitOff)) := by
  induction fuel generalizing byteIdx bitOff filled remaining raw with
  | zero =>
    simp only [gatherBits]
    omega
  | succ fuel ih =>
    simp only [gatherBits]
    split
    · rw [ih _ _ _ _ _ (by omega) (by omega)]
      omega
    · dsimp only
      omega

theorem bitField_remaining (lo hi : Word) (start length : Nat) :
    (bitField lo hi start length).2 = length - (64 - (start - 1)) := by
  unfold bitField
  rw [gatherBits_remaining _ _ _ _ _ _ _ _ (by omega) (by omega)]
  omega

/-! ## What a command can do -/

@[simp] theorem resultCode_code_eq_zero_iff (c : ResultCode) : c.code = 0 ↔ c = .ok := by
  cases c <;> decide

/-- What a command does to the state, by what it writes: every failure writes a code other than OK and nothing else
(R191), and a success writes the results its rule names. -/
inductive CommandEffect (s : State) : Instr → State → Prop
  | failed {i : Instr} {c : ResultCode} (hcode : c ≠ .ok) : CommandEffect s i (raise c s)
  | decomposed : CommandEffect s .decomp
      (finishOk (writeHeader ((idPriority s.id).zeroExtend 32) ((idDataPage s.id).zeroExtend 32)
        ((idPduFormat s.id).zeroExtend 32) ((idPduSpecific s.id).zeroExtend 32)
        ((idSourceAddress s.id).zeroExtend 32) ((idPgn s.id).zeroExtend 32) s))
  | extracted {i : Instr} {truncated : Bool} (raw : DWord) (hi : i = .extbyte ∨ i = .extbit)
      (htrunc : truncated = true → i = .extbit ∧ 64 < descStart s - 1 + descLength s) :
      CommandEffect s i (finishOk (writeExtract i raw truncated s))
  | pushed (b : Byte) (hroom : s.buf.length ≠ Config.asmCap) : CommandEffect s (.push b) (finishOk (appendByte b s))
  | popped (hframe : 12 ≤ s.buf.length) : CommandEffect s .pop (finishOk (takeFrame s))
  | reset : CommandEffect s .srst (resetBlock s)

theorem commandEffect_of_exec {i : Instr} {s t : State} (h : exec i s = .next t) : CommandEffect s i t := by
  cases i with
  | decomp =>
    cases h
    exact .decomposed
  | extbyte =>
    change execExtbyte s = .next t at h
    rcases execExtbyte_cases s with ⟨-, hs⟩ | ⟨-, -, -, hs⟩ | ⟨-, -, -, hs⟩ <;> rw [hs] at h <;> cases h
    · exact .failed (by decide)
    · exact .failed (by decide)
    · exact .extracted _ (.inl rfl) (by simp)
  | extbit =>
    change execExtbit s = .next t at h
    rcases execExtbit_cases s with ⟨-, hs⟩ | ⟨-, -, hs⟩ <;> rw [hs] at h <;> cases h
    · exact .failed (by decide)
    · refine .extracted _ (.inr rfl) fun htrunc => ⟨rfl, ?_⟩
      rw [truncatedFlag, bitField_remaining, decide_eq_true_eq] at htrunc
      omega
  | push b =>
    cases h
    rcases pushByte_cases Config.asmCap b s with ⟨-, hs⟩ | ⟨hroom, hs⟩ <;> rw [hs]
    · exact .failed (by decide)
    · exact .pushed b hroom
  | pop =>
    change execPop s = .next t at h
    rcases execPop_cases s with ⟨-, hs⟩ | ⟨hframe, hs⟩ <;> rw [hs] at h <;> cases h
    · exact .failed (by decide)
    · exact .popped hframe
  | srst =>
    cases h
    exact .reset

/-! ## What a step can do, by who acts -/

theorem actorOf_write_ok {v : Word} {i : Instr} (h : decode v = .ok i) : actorOf (.write 0x00 v) = .command i := by
  simp [actorOf, Reg.idx, h]

theorem actorOf_write_error {v : Word} {r : Reject} (h : decode v = .error r) :
    actorOf (.write 0x00 v) = .illegal := by
  simp [actorOf, Reg.idx, h]

theorem actorOf_write {idx : RegIndex} (h : idx ≠ 0x00) (v : Word) : actorOf (.write idx v) = .hostWrite idx :=
  if_neg h

theorem actor_cons {s : State} {x : HostInput} {rest : List HostInput} (h : s.pending = x :: rest) :
    actor s = actorOf x := by
  rw [actor, h]

/-- What a step does to the state, by who acts in it. -/
inductive StepEffect (s : State) : State → Prop
  | idle (hactor : actor s = .idle) : StepEffect s s
  | command {i : Instr} {t : State} (rest : List HostInput) (hactor : actor s = .command i)
      (heffect : CommandEffect (takeInput rest s) i t) : StepEffect s t
  | illegal (rest : List HostInput) (hactor : actor s = .illegal) :
      StepEffect s (raise .illegalCommand (takeInput rest s))
  | hostWrite (rest : List HostInput) (idx : RegIndex) (v : Word) (hactor : actor s = .hostWrite idx) :
      StepEffect s (hostWrite idx v (takeInput rest s))
  | hostRead (rest : List HostInput) (idx : RegIndex) (hactor : actor s = .hostRead) :
      StepEffect s (returnToHost (hostRead (takeInput rest s) idx) (takeInput rest s))
  | reset (rest : List HostInput) (hactor : actor s = .reset) : StepEffect s (resetBlock (takeInput rest s))

theorem stepEffect_of_step {s t : State} (h : step s = .next t) : StepEffect s t := by
  rcases step_cases s with ⟨hp, hs⟩ | ⟨v, rest, i, hp, hd, hs⟩ | ⟨v, rest, r, hp, hd, hs⟩ |
    ⟨idx, v, rest, hidx, hp, hs⟩ | ⟨idx, rest, hp, hs⟩ | ⟨rest, hp, hs⟩ <;> rw [hs] at h
  · cases h
    exact .idle (by rw [actor, hp])
  · exact .command rest ((actor_cons hp).trans (actorOf_write_ok hd)) (commandEffect_of_exec h)
  · cases h
    exact .illegal rest ((actor_cons hp).trans (actorOf_write_error hd))
  · cases h
    exact .hostWrite rest idx v ((actor_cons hp).trans (actorOf_write hidx v))
  · cases h
    exact .hostRead rest idx (actor_cons hp)
  · cases h
    exact .reset rest (actor_cons hp)

/-- The two ways of saying which command the next step runs agree. -/
theorem pendingCommand_eq_some_iff {s : State} {i : Instr} : pendingCommand s = some i ↔ actor s = .command i := by
  rcases step_cases s with ⟨hp, -⟩ | ⟨v, rest, j, hp, hd, -⟩ | ⟨v, rest, r, hp, hd, -⟩ |
    ⟨idx, v, rest, hidx, hp, -⟩ | ⟨idx, rest, hp, -⟩ | ⟨rest, hp, -⟩
  · simp [pendingCommand, actor, hp]
  · rw [actor_cons hp, actorOf_write_ok hd]
    simp only [pendingCommand, hp, commandOf_cmd, hd, Option.some.injEq, Actor.command.injEq]
  · rw [actor_cons hp, actorOf_write_error hd]
    simp only [pendingCommand, hp, commandOf_cmd, hd, reduceCtorEq]
  · rw [actor_cons hp, actorOf_write hidx]
    simp only [pendingCommand, hp, commandOf_write hidx, reduceCtorEq]
  · simp [pendingCommand, actor_cons hp, actorOf, hp, commandOf]
  · simp [pendingCommand, actor_cons hp, actorOf, hp, commandOf]

/-! ## Which registers read differently after an operation -/

@[simp] theorem readReg_takeInput (cap : Nat) (rest : List HostInput) (s : State) (r : Reg) :
    readReg cap (takeInput rest s) r = readReg cap s r :=
  readReg_own_fields cap s rest s.returned r

@[simp] theorem readReg_returnToHost (cap : Nat) (v : Word) (s : State) (r : Reg) :
    readReg cap (returnToHost v s) r = readReg cap s r :=
  readReg_own_fields cap s s.pending (s.returned ++ [v]) r

theorem readReg_raise (cap : Nat) (c : ResultCode) (s : State) {r : Reg} (h : r ≠ .status) :
    readReg cap (raise c s) r = readReg cap s r := by
  cases r <;> simp at h <;> rfl

theorem readReg_finishOk (cap : Nat) (s : State) {r : Reg} (h : r ≠ .status) :
    readReg cap (finishOk s) r = readReg cap s r :=
  readReg_raise cap .ok s h

theorem readReg_writeHeader (cap : Nat) (p dp pf ps sa pgn : Word) (s : State) {r : Reg}
    (h : r ∉ [Reg.priority, .dataPage, .pduFormat, .pduSpecific, .sourceAddress, .pgn]) :
    readReg cap (writeHeader p dp pf ps sa pgn s) r = readReg cap s r := by
  cases r <;> simp at h <;> rfl

theorem readReg_writeExtract (cap : Nat) (i : Instr) (raw : DWord) (truncated : Bool) (s : State) {r : Reg}
    (h : r ∉ [Reg.status, .rawLo, .rawHi, .scaledLo, .scaledHi]) :
    readReg cap (writeExtract i raw truncated s) r = readReg cap s r := by
  cases r <;> simp at h <;> rfl

theorem readReg_appendByte (cap : Nat) (b : Byte) (s : State) {r : Reg} (h : r ∉ [Reg.status, .asmCount]) :
    readReg cap (appendByte b s) r = readReg cap s r := by
  cases r <;> simp at h <;> rfl

theorem readReg_takeFrame (cap : Nat) (s : State) {r : Reg}
    (h : r ∉ [Reg.status, .asmCount, .id, .dataLo, .dataHi]) :
    readReg cap (takeFrame s) r = readReg cap s r := by
  cases r <;> simp at h <;> rfl

/-- A host write changes what the host reads of the one register it names, and only where that is writable (R62). -/
theorem readReg_hostWrite (cap : Nat) (idx : RegIndex) (v : Word) (s : State) {r : Reg}
    (h : ¬ (r.access = .readWrite ∧ r.idx = idx)) : readReg cap (hostWrite idx v s) r = readReg cap s r := by
  rcases hostWrite_cases idx v s with ⟨r', rfl, hw⟩ | ⟨-, hw⟩ <;> rw [hw]
  rw [readReg_writeReg, if_neg]
  rintro ⟨rfl, hacc⟩
  exact h ⟨hacc, rfl⟩

/-- Every command may change STATUS (R180). -/
theorem ne_status_of_mayChange_command {i : Instr} {r : Reg} (h : mayChange (.command i) r = false) :
    r ≠ .status := by
  rintro rfl
  cases i <;> simp [mayChange] at h

/-- A command leaves the read value of every register that is not among those it writes (R82). -/
theorem readReg_commandEffect (cap : Nat) {i : Instr} {s t : State} (he : CommandEffect s i t) {r : Reg}
    (h : mayChange (.command i) r = false) : readReg cap t r = readReg cap s r := by
  have hst := ne_status_of_mayChange_command h
  cases he with
  | failed _ => exact readReg_raise cap _ s hst
  | decomposed =>
    rw [readReg_finishOk cap _ hst, readReg_writeHeader]
    exact fun hr => of_decide_eq_false h (List.mem_cons_of_mem _ hr)
  | extracted raw hi _ =>
    rw [readReg_finishOk cap _ hst, readReg_writeExtract]
    rcases hi with rfl | rfl <;> exact of_decide_eq_false h
  | pushed b _ => rw [readReg_finishOk cap _ hst, readReg_appendByte _ _ _ (of_decide_eq_false h)]
  | popped _ => rw [readReg_finishOk cap _ hst, readReg_takeFrame _ _ (of_decide_eq_false h)]
  | reset => simp [mayChange] at h

/-! ## What the operations keep of the state invariant -/

theorem resultCode_code_le (c : ResultCode) : c.code.toNat ≤ 5 := by
  cases c <;> decide

/-- Bits 31 to 7 of STATUS are hardwired zero in every state (R23). -/
theorem hostRead_status_lt (s : State) : (hostRead s Reg.status.idx).toNat < 2 ^ 7 := by
  have herr := s.err.isLt
  rw [hostRead_idx]
  simp only [readReg, statusWord, statusBits_toNat]
  split <;> split <;> split <;> omega

/-- Bits 31 to 16 of DESC are hardwired zero (R26). -/
theorem descMask_toNat (v : Word) : (descMask v).toNat = v.toNat % 2 ^ 16 := by
  rw [descMask, BitVec.toNat_setWidth, extract_toNat]
  omega

theorem zeroExtend_toNat_le {n : Nat} (hn : n ≤ 32) (x : BitVec n) : (x.zeroExtend 32).toNat ≤ 2 ^ n - 1 := by
  rw [BitVec.toNat_setWidth_of_le hn]
  exact Nat.le_sub_one_of_lt x.isLt

/-- One byte above another, as a word: PGN as DECOMP writes it (R100). -/
theorem zeroExtend_append_bytes (x y : Byte) :
    (x ++ y).zeroExtend 32 = ((x.zeroExtend 32) <<< 8) ||| y.zeroExtend 32 := by
  have hx := x.isLt
  apply BitVec.eq_of_toNat_eq
  rw [BitVec.toNat_or, BitVec.toNat_shiftLeft, BitVec.toNat_setWidth_of_le (by omega),
    BitVec.toNat_setWidth_of_le (by omega), BitVec.toNat_setWidth_of_le (by omega), BitVec.toNat_append, Nat.mod_eq_of_lt]
  rw [Nat.shiftLeft_eq]
  omega

theorem stateInv_reset : StateInv State.reset where
  bufBound := Nat.zero_le _
  descHighZero := by decide
  statusHighZero := hostRead_status_lt _
  errBound := by decide
  priorityBound := by decide
  dataPageBound := by decide
  pduFormatBound := by decide
  pduSpecificBound := by decide
  sourceAddressBound := by decide
  pgnBound := by decide
  pgnIdentity := by decide

theorem stateInv_resetBlock (s : State) : StateInv (resetBlock s) :=
  { stateInv_reset with statusHighZero := hostRead_status_lt _ }

theorem stateInv_takeInput {s : State} (h : StateInv s) (rest : List HostInput) : StateInv (takeInput rest s) :=
  { h with statusHighZero := hostRead_status_lt _ }

theorem stateInv_returnToHost {s : State} (h : StateInv s) (v : Word) : StateInv (returnToHost v s) :=
  { h with statusHighZero := hostRead_status_lt _ }

theorem stateInv_raise {s : State} (h : StateInv s) (c : ResultCode) : StateInv (raise c s) :=
  { h with statusHighZero := hostRead_status_lt _, errBound := resultCode_code_le c }

theorem stateInv_finishOk {s : State} (h : StateInv s) : StateInv (finishOk s) :=
  stateInv_raise h .ok

theorem stateInv_writeExtract {s : State} (h : StateInv s) (i : Instr) (raw : DWord) (truncated : Bool) :
    StateInv (writeExtract i raw truncated s) :=
  { h with statusHighZero := hostRead_status_lt _ }

theorem stateInv_appendByte {s : State} (h : StateInv s) (hroom : s.buf.length ≠ Config.asmCap) (b : Byte) :
    StateInv (appendByte b s) :=
  { h with
    statusHighZero := hostRead_status_lt _
    bufBound := by
      have hbound := h.bufBound
      rw [appendByte_buf, List.length_append, List.length_singleton]
      omega }

theorem stateInv_takeFrame {s : State} (h : StateInv s) : StateInv (takeFrame s) :=
  { h with
    statusHighZero := hostRead_status_lt _
    bufBound := by
      have hbound := h.bufBound
      rw [takeFrame_buf, List.length_drop]
      omega }

/-- The header DECOMP writes is in the ranges of R29, whatever ID holds. -/
theorem stateInv_writeHeader {s : State} (h : StateInv s) (id : Word) :
    StateInv (writeHeader ((idPriority id).zeroExtend 32) ((idDataPage id).zeroExtend 32)
      ((idPduFormat id).zeroExtend 32) ((idPduSpecific id).zeroExtend 32)
      ((idSourceAddress id).zeroExtend 32) ((idPgn id).zeroExtend 32) s) :=
  { h with
    statusHighZero := hostRead_status_lt _
    priorityBound := zeroExtend_toNat_le (by decide) (idPriority id)
    dataPageBound := zeroExtend_toNat_le (by decide) (idDataPage id)
    pduFormatBound := zeroExtend_toNat_le (by decide) (idPduFormat id)
    pduSpecificBound := zeroExtend_toNat_le (by decide) (idPduSpecific id)
    sourceAddressBound := zeroExtend_toNat_le (by decide) (idSourceAddress id)
    pgnBound := zeroExtend_toNat_le (by decide) (idPgn id)
    pgnIdentity := zeroExtend_append_bytes _ _ }

theorem stateInv_writeReg {s : State} (h : StateInv s) (r : Reg) (v : Word) : StateInv (writeReg r v s) := by
  cases r
  case desc =>
    have hdesc : (descMask v).toNat < 2 ^ 16 := by
      rw [descMask_toNat]
      exact Nat.mod_lt _ (by decide)
    exact { h with statusHighZero := hostRead_status_lt _, descHighZero := hdesc }
  all_goals exact { h with statusHighZero := hostRead_status_lt _ }

theorem stateInv_hostWrite {s : State} (h : StateInv s) (idx : RegIndex) (v : Word) :
    StateInv (hostWrite idx v s) := by
  rcases hostWrite_cases idx v s with ⟨r, -, hw⟩ | ⟨-, hw⟩ <;> rw [hw]
  · exact stateInv_writeReg h r v
  · exact h

theorem stateInv_commandEffect {i : Instr} {s t : State} (h : StateInv s) (he : CommandEffect s i t) :
    StateInv t := by
  cases he with
  | failed _ => exact stateInv_raise h _
  | decomposed => exact stateInv_finishOk (stateInv_writeHeader h s.id)
  | extracted raw _ _ => exact stateInv_finishOk (stateInv_writeExtract h _ raw _)
  | pushed b hroom => exact stateInv_finishOk (stateInv_appendByte h hroom b)
  | popped _ => exact stateInv_finishOk (stateInv_takeFrame h)
  | reset => exact stateInv_resetBlock s

theorem stateInv_step {s t : State} (h : StateInv s) (hs : step s = .next t) : StateInv t := by
  cases stepEffect_of_step hs with
  | idle _ => exact h
  | command rest _ he => exact stateInv_commandEffect (stateInv_takeInput h rest) he
  | illegal rest _ => exact stateInv_raise (stateInv_takeInput h rest) _
  | hostWrite rest idx v _ => exact stateInv_hostWrite (stateInv_takeInput h rest) idx v
  | hostRead rest _ _ => exact stateInv_returnToHost (stateInv_takeInput h rest) _
  | reset rest _ => exact stateInv_resetBlock _

/-! ## Flags and buffered bytes -/

/-- Run with other flags, a command answers the same state but for a TRUNC it does not write (R35). -/
theorem exec_withFlags {i : Instr} {s t : State} (e : BitVec 4) (f : Bool) (h : exec i s = .next t) :
    ∃ f', exec i { s with err := e, trunc := f } = .next { t with trunc := f' } ∧
      (f' = t.trunc ∨ (t.trunc = s.trunc ∧ f' = f)) := by
  cases i with
  | decomp =>
    cases h
    exact ⟨f, rfl, .inr ⟨rfl, rfl⟩⟩
  | extbyte =>
    change execExtbyte s = .next t at h
    rcases execExtbyte_cases s with ⟨hd, hs⟩ | ⟨h₀, h₁, hlen, hs⟩ | ⟨h₀, h₁, hlen, hs⟩ <;> rw [hs] at h <;> cases h
    · exact ⟨f, exec_extbyte_invalid hd, .inr ⟨rfl, rfl⟩⟩
    · exact ⟨f, exec_extbyte_short h₀ h₁ hlen, .inr ⟨rfl, rfl⟩⟩
    · exact ⟨false, exec_extbyte_ok h₀ h₁ hlen, .inl rfl⟩
  | extbit =>
    change execExtbit s = .next t at h
    rcases execExtbit_cases s with ⟨hd, hs⟩ | ⟨h₀, h₁, hs⟩ <;> rw [hs] at h <;> cases h
    · exact ⟨f, exec_extbit_invalid hd, .inr ⟨rfl, rfl⟩⟩
    · exact ⟨_, exec_extbit_ok h₀ h₁, .inl rfl⟩
  | push b =>
    cases h
    rcases pushByte_cases Config.asmCap b s with ⟨hlen, hs⟩ | ⟨hlen, hs⟩ <;> rw [hs]
    · exact ⟨f, exec_push_full hlen, .inr ⟨rfl, rfl⟩⟩
    · exact ⟨f, exec_push_room hlen, .inr ⟨rfl, rfl⟩⟩
  | pop =>
    change execPop s = .next t at h
    rcases execPop_cases s with ⟨hlen, hs⟩ | ⟨hlen, hs⟩ <;> rw [hs] at h <;> cases h
    · exact ⟨f, exec_pop_short hlen, .inr ⟨rfl, rfl⟩⟩
    · exact ⟨f, exec_pop_frame hlen, .inr ⟨rfl, rfl⟩⟩
  | srst =>
    cases h
    exact ⟨false, rfl, .inl rfl⟩

/-- A host read sees of the buffer only how many bytes it holds (R37). -/
theorem hostRead_withBuf {s : State} {c : List Byte} (hc : c.length = s.buf.length) (idx : RegIndex) :
    hostRead { s with buf := c } idx = hostRead s idx := by
  refine hostRead_congr (fun r => ?_) idx
  cases r
  case status => simp only [readReg, statusWord, bufferIsFull, frameReady, hc]
  case asmCount => simp only [readReg, asmCount, hc]
  all_goals rfl

theorem hostWrite_withBuf (idx : RegIndex) (v : Word) (s : State) (c : List Byte) :
    hostWrite idx v { s with buf := c } = { hostWrite idx v s with buf := c } := by
  rcases ofIdx_cases idx with ⟨r, rfl⟩ | ⟨hidx, -⟩
  · rw [hostWrite_idx, hostWrite_idx]
    cases r <;> rfl
  · rw [hostWrite_unmapped hidx, hostWrite_unmapped hidx]

@[simp] theorem hostWrite_buf (idx : RegIndex) (v : Word) (s : State) : (hostWrite idx v s).buf = s.buf := by
  rcases hostWrite_cases idx v s with ⟨r, -, hw⟩ | ⟨-, hw⟩ <;> rw [hw]
  obtain ⟨-, -, hbuf, -, -⟩ := writeReg_keeps r v s
  exact hbuf

/-- A command other than a POP with a whole frame does not read the buffered bytes (R37). -/
theorem exec_withBuf {i : Instr} {s t : State} {c : List Byte} (hc : c.length = s.buf.length)
    (hpop : ¬ (i = .pop ∧ 12 ≤ s.buf.length)) (h : exec i s = .next t) :
    ∃ c', c'.length = t.buf.length ∧ exec i { s with buf := c } = .next { t with buf := c' } := by
  cases i with
  | decomp =>
    cases h
    exact ⟨c, hc, rfl⟩
  | extbyte =>
    change execExtbyte s = .next t at h
    rcases execExtbyte_cases s with ⟨hd, hs⟩ | ⟨h₀, h₁, hlen, hs⟩ | ⟨h₀, h₁, hlen, hs⟩ <;> rw [hs] at h <;> cases h
    · exact ⟨c, hc, exec_extbyte_invalid hd⟩
    · exact ⟨c, hc, exec_extbyte_short h₀ h₁ hlen⟩
    · exact ⟨c, hc, exec_extbyte_ok h₀ h₁ hlen⟩
  | extbit =>
    change execExtbit s = .next t at h
    rcases execExtbit_cases s with ⟨hd, hs⟩ | ⟨h₀, h₁, hs⟩ <;> rw [hs] at h <;> cases h
    · exact ⟨c, hc, exec_extbit_invalid hd⟩
    · exact ⟨c, hc, exec_extbit_ok h₀ h₁⟩
  | push b =>
    cases h
    rcases pushByte_cases Config.asmCap b s with ⟨hlen, hs⟩ | ⟨hlen, hs⟩ <;> rw [hs] <;> rw [← hc] at hlen
    · exact ⟨c, hc, exec_push_full hlen⟩
    · exact ⟨c ++ [b], by simp [hc], exec_push_room hlen⟩
  | pop =>
    have hlen : s.buf.length < 12 := by simpa using hpop
    rw [exec_pop_short hlen] at h
    cases h
    exact ⟨c, hc, exec_pop_short (hc ▸ hlen)⟩
  | srst =>
    cases h
    exact ⟨[], rfl, rfl⟩

/-- A step other than a POP with a whole frame does not read the buffered bytes (R37). -/
theorem step_withBuf {s t : State} {c : List Byte} (hc : c.length = s.buf.length)
    (hpop : ¬ (pendingCommand s = some .pop ∧ 12 ≤ s.buf.length)) (h : step s = .next t) :
    ∃ c', c'.length = t.buf.length ∧ step { s with buf := c } = .next { t with buf := c' } := by
  have htake (rest : List HostInput) :
      takeInput rest { s with buf := c } = { takeInput rest s with buf := c } := rfl
  rcases step_cases s with ⟨hp, hs⟩ | ⟨v, rest, i, hp, hd, hs⟩ | ⟨v, rest, r, hp, hd, hs⟩ |
    ⟨idx, v, rest, hidx, hp, hs⟩ | ⟨idx, rest, hp, hs⟩ | ⟨rest, hp, hs⟩ <;> rw [hs] at h
  · cases h
    exact ⟨c, hc, step_idle hp⟩
  · have hi : pendingCommand s = some i :=
      pendingCommand_eq_some_iff.mpr ((actor_cons hp).trans (actorOf_write_ok hd))
    rw [hi, Option.some.injEq] at hpop
    rw [step_command (s := { s with buf := c }) hp, runCommand_ok hd, htake]
    exact exec_withBuf (s := takeInput rest s) hc hpop h
  · cases h
    rw [step_command (s := { s with buf := c }) hp, runCommand_error hd]
    exact ⟨c, hc, rfl⟩
  · cases h
    rw [step_transact (s := { s with buf := c }) hp (commandOf_write hidx v), transact, htake,
      hostWrite_withBuf idx v (takeInput rest s) c]
    exact ⟨c, by rw [hostWrite_buf, takeInput_buf, hc], rfl⟩
  · cases h
    rw [step_transact (s := { s with buf := c }) hp rfl, transact, htake,
      hostRead_withBuf (s := takeInput rest s) hc]
    exact ⟨c, hc, rfl⟩
  · cases h
    rw [step_transact (s := { s with buf := c }) hp rfl]
    exact ⟨[], rfl, rfl⟩

/-! ## RAW, SCALED and TRUNC over a step -/

/-- A host write reaches none of the results (R62). -/
theorem hostWrite_results (idx : RegIndex) (v : Word) (s : State) :
    rawValue (hostWrite idx v s) = rawValue s ∧ scaledValue (hostWrite idx v s) = scaledValue s ∧
    (hostWrite idx v s).trunc = s.trunc := by
  rcases hostWrite_cases idx v s with ⟨r, -, hw⟩ | ⟨-, hw⟩ <;> rw [hw]
  · cases r <;> exact ⟨rfl, rfl, rfl⟩
  · exact ⟨rfl, rfl, rfl⟩

/-- A command leaves RAW, SCALED and TRUNC alone unless it is an extract that ends OK, or SRST. -/
theorem commandEffect_results {i : Instr} {s t : State} (he : CommandEffect s i t) :
    (rawValue t = rawValue s ∧ scaledValue t = scaledValue s ∧ t.trunc = s.trunc) ∨
    ((i = .extbyte ∨ i = .extbit) ∧ t.err = 0) ∨ i = .srst := by
  cases he with
  | failed _ => exact .inl ⟨rfl, rfl, rfl⟩
  | decomposed => exact .inl ⟨rfl, rfl, rfl⟩
  | extracted _ hi _ => exact .inr (.inl ⟨hi, rfl⟩)
  | pushed _ _ => exact .inl ⟨rfl, rfl, rfl⟩
  | popped _ => exact .inl ⟨rfl, rfl, rfl⟩
  | reset => exact .inr (.inr rfl)

theorem step_results {s t : State} (h : step s = .next t) :
    (rawValue t = rawValue s ∧ scaledValue t = scaledValue s ∧ t.trunc = s.trunc) ∨
    ((actor s = .command .extbyte ∨ actor s = .command .extbit) ∧ t.err = 0) ∨
    actor s = .command .srst ∨ actor s = .reset := by
  cases stepEffect_of_step h with
  | idle _ => exact .inl ⟨rfl, rfl, rfl⟩
  | command rest ha he =>
    rw [ha]
    simp only [Actor.command.injEq]
    rcases commandEffect_results he with hkeep | hext | hsrst
    · exact .inl hkeep
    · exact .inr (.inl hext)
    · exact .inr (.inr (.inl hsrst))
  | illegal _ _ => exact .inl ⟨rfl, rfl, rfl⟩
  | hostWrite rest idx v _ => exact .inl (hostWrite_results idx v (takeInput rest s))
  | hostRead _ _ _ => exact .inl ⟨rfl, rfl, rfl⟩
  | reset _ ha => exact .inr (.inr (.inr ha))

/-- TRUNC is set after a command either by an EXTBIT whose field runs past bit 63 (R124), or because it was set before
a command that is no extract that ends OK. -/
theorem commandEffect_trunc {i : Instr} {s t : State} (he : CommandEffect s i t) (ht : t.trunc = true) :
    (i = .extbit ∧ t.err = 0 ∧ 64 < descStart s - 1 + descLength s) ∨
    (s.trunc = true ∧ ¬ ((i = .extbyte ∨ i = .extbit) ∧ t.err = 0)) := by
  cases he with
  | failed hcode => exact .inr ⟨ht, fun ⟨_, herr⟩ => hcode ((resultCode_code_eq_zero_iff _).mp herr)⟩
  | extracted _ _ htrunc =>
    obtain ⟨hi, hover⟩ := htrunc ht
    exact .inl ⟨hi, rfl, hover⟩
  | decomposed => exact .inr ⟨ht, by simp⟩
  | pushed _ _ => exact .inr ⟨ht, by simp⟩
  | popped _ => exact .inr ⟨ht, by simp⟩
  | reset => cases ht

/-! ## The payload and the descriptor as numbers -/

theorem payloadByte_toNat_low (s : State) {i : Nat} (h : i < 4) :
    (payloadByte s i).toNat = s.dataLo.toNat / 2 ^ (8 * i) % 2 ^ 8 := by
  rw [payloadByte, byteOf, if_pos h, extract_toNat]

theorem payloadByte_toNat_high (s : State) {i : Nat} (h : 4 ≤ i) :
    (payloadByte s i).toNat = s.dataHi.toNat / 2 ^ (8 * (i - 4)) % 2 ^ 8 := by
  rw [payloadByte, byteOf, if_neg (by omega), extract_toNat]

theorem payload_toNat (s : State) : (payload s).toNat = s.dataHi.toNat * 2 ^ 32 + s.dataLo.toNat := by
  rw [payload, BitVec.toNat_append, Nat.shiftLeft_eq, Nat.mul_comm, ← Nat.two_pow_add_eq_or_of_lt s.dataLo.isLt]

/-- Four bytes of a number below 2^32, each at its little-endian place, add up to it. -/
theorem sum_four_bytes {n : Nat} (h : n < 2 ^ 32) :
    ∑ i ∈ Finset.range 4, n / 2 ^ (8 * i) % 2 ^ 8 * 2 ^ (8 * i) = n := by
  simp only [Finset.sum_range_succ, Finset.sum_range_zero]
  omega

/-- D is the payload read as a little-endian integer (R25). -/
theorem payload_toNat_eq_sum (s : State) :
    (payload s).toNat = ∑ i ∈ Finset.range 8, (payloadByte s i).toNat * 2 ^ (8 * i) := by
  have hlow : ∑ i ∈ Finset.range 4, (payloadByte s i).toNat * 2 ^ (8 * i) = s.dataLo.toNat := by
    rw [← sum_four_bytes s.dataLo.isLt]
    exact Finset.sum_congr rfl fun i hi => by rw [payloadByte_toNat_low s (Finset.mem_range.mp hi)]
  have hhigh : ∑ i ∈ Finset.range 4, (payloadByte s (4 + i)).toNat * 2 ^ (8 * (4 + i)) =
      s.dataHi.toNat * 2 ^ 32 := by
    rw [← sum_four_bytes s.dataHi.isLt, Finset.sum_mul]
    refine Finset.sum_congr rfl fun i _ => ?_
    rw [payloadByte_toNat_high s (by omega), Nat.add_sub_cancel_left]
    ring
  rw [payload_toNat, Finset.sum_range_add _ 4 4, hlow, hhigh, Nat.add_comm]

/-- START and LENGTH are bytes of DESC, and DESC keeps the low half of what is written (R26). -/
theorem desc_fields_of_descMask {s : State} {v : Word} (h : s.desc = descMask v) :
    descStart s = v.toNat % 2 ^ 8 ∧ descLength s = v.toNat / 2 ^ 8 % 2 ^ 8 := by
  rw [descStart, descLength, h, extract_toNat, extract_toNat, descMask_toNat]
  omega

/-! ## Reset -/

theorem readReg_reset (cap : Nat) (hcap : cap ≠ 0) (r : Reg) :
    readReg cap State.reset r = if r = .resHi then 0x3FF00000 else 0 := by
  cases r
  case status => simp [readReg, statusWord, bufferIsFull, frameReady, hcap.symm]
  all_goals rfl

theorem readsAsReset_resetBlock (s : State) : ReadsAsReset (resetBlock s) where
  registers idx := by
    have hcap : Config.asmCap ≠ 0 := Nat.ne_of_gt (Nat.lt_of_lt_of_le (by decide) asmCap_ge)
    rcases ofIdx_cases idx with ⟨r, rfl⟩ | ⟨hidx, -⟩
    · rw [hostRead_idx, resetBlock, readReg_own_fields, readReg_reset _ hcap]
      exact if_congr ⟨congrArg Reg.idx, idx_inj⟩ rfl rfl
    · have hne : idx ≠ Reg.resHi.idx := by
        rintro rfl
        exact absurd hidx (by decide)
      rw [hostRead_unmapped _ hidx, if_neg hne]
  result := ⟨rfl, rfl⟩
  emptyBuffer := by
    refine ⟨rfl, rfl, decide_eq_false ?_⟩
    have hcap := asmCap_ge
    rw [resetBlock_buf, List.length_nil]
    omega
  scaling := by
    simp only [resolution, offset, resetBlock_resHi, resetBlock_resLo, resetBlock_offHi, resetBlock_offLo]
    decide

end Sys2Proof.Machine

namespace Sys2Proof.Proofs.StateRules
open Sys2Proof.Machine

/-- Settles O1: both resets leave the reset state, with only the model's own fields kept. -/
theorem resetStateReadsAsTheTable : Obligations.ResetStateReadsAsTheTable := by
  refine ⟨readsAsReset_resetBlock State.reset, fun s rest hpending => ?_⟩
  refine ⟨_, ?_, readsAsReset_resetBlock (takeInput rest s)⟩
  rcases hpending with hp | hp
  · exact step_transact hp rfl
  · exact (step_command hp).trans (runCommand_ok (i := .srst) (by decide) _)

/-- Settles O2: every clause is a closed fact about the reset values but STATUS, whose high bits are never set. -/
theorem resetMeetsTheStateInvariant : Obligations.ResetMeetsTheStateInvariant := stateInv_reset

/-- Settles O3: by who acts in the step, each operation keeps the invariant. -/
theorem everyStepKeepsTheStateInvariant : Obligations.EveryStepKeepsTheStateInvariant :=
  fun _ _ hinv hstep => stateInv_step hinv hstep

/-- Settles O4: of the actors only a command writes TRUNC, unless a reset clears it. -/
theorem truncIsSetOnlyByAnOverrunningExtbit : Obligations.TruncIsSetOnlyByAnOverrunningExtbit := by
  intro s t hstep htrunc
  simp only [pendingCommand_eq_some_iff]
  cases stepEffect_of_step hstep with
  | idle ha => exact .inr ⟨htrunc, by simp [ha]⟩
  | command rest ha he =>
    simp only [ha, Actor.command.injEq]
    exact commandEffect_trunc (s := takeInput rest s) he htrunc
  | illegal _ ha => exact .inr ⟨htrunc, by simp [ha]⟩
  | hostWrite rest idx v ha =>
    obtain ⟨-, -, hkeep⟩ := hostWrite_results idx v (takeInput rest s)
    exact .inr ⟨hkeep.symm.trans htrunc, by simp [ha]⟩
  | hostRead _ _ ha => exact .inr ⟨htrunc, by simp [ha]⟩
  | reset _ _ => cases htrunc

/-- Settles O6: each register is the sum of its four bytes, and D is the two registers side by side. -/
theorem payloadBytesAreSlicesOfData : Obligations.PayloadBytesAreSlicesOfData :=
  fun s => ⟨fun _ hi => payloadByte_toNat_low s hi, fun _ hi _ => payloadByte_toNat_high s hi,
    payload_toNat s, payload_toNat_eq_sum s⟩

/-- Settles O7: the step stores the low half of the value in DESC and takes the input. -/
theorem descTakesStartAndLength : Obligations.DescTakesStartAndLength := by
  intro s v rest hp
  have hstep : step s = .next (writeReg .desc v (takeInput rest s)) :=
    step_transact hp (commandOf_write (by decide) v)
  obtain ⟨hstart, hlength⟩ := desc_fields_of_descMask (s := writeReg .desc v (takeInput rest s)) rfl
  exact ⟨_, hstep, rfl, hstart, hlength, descMask_toNat v⟩

/-- Settles O10: the length of a buffer within the bound is below 2^32, and ASM_COUNT is read-only. -/
theorem asmCountIsTheBufferLength : Obligations.AsmCountIsTheBufferLength :=
  ⟨asmCap_lt, fun _ hlen => Nat.mod_eq_of_lt (Nat.lt_of_le_of_lt hlen asmCap_lt),
    fun _ v _ hp => step_transact hp (commandOf_write (by decide) v)⟩

/-- Settles O15: the law of a CMD write, then that of a word that decodes. -/
theorem stepRunsTheDecodedCommand : Obligations.StepRunsTheDecodedCommand :=
  fun _ _ _ _ hp hd _ => (step_command hp).trans (runCommand_ok hd _)

/-- Settles O19: by who acts in the step, the operations it consists of leave the register's read value. -/
theorem registersChangeOnlyByTheirWriters : Obligations.RegistersChangeOnlyByTheirWriters := by
  intro s t r hstep hchange
  rw [hostRead_idx, hostRead_idx]
  cases stepEffect_of_step hstep with
  | idle _ => rfl
  | command rest ha he =>
    rw [ha] at hchange
    rw [readReg_commandEffect _ he hchange, readReg_takeInput]
  | illegal rest ha =>
    rw [ha] at hchange
    rw [readReg_raise _ _ _ (of_decide_eq_false hchange), readReg_takeInput]
  | hostWrite rest idx v ha =>
    rw [ha] at hchange
    rw [readReg_hostWrite _ _ _ _ (by simpa [mayChange] using hchange), readReg_takeInput]
  | hostRead _ _ _ => rw [readReg_returnToHost, readReg_takeInput]
  | reset _ ha =>
    rw [ha] at hchange
    cases hchange

/-- Settles O20: a step that is none of these keeps RAW, SCALED and TRUNC. -/
theorem resultsAreWrittenOnlyBySuccessfulExtracts : Obligations.ResultsAreWrittenOnlyBySuccessfulExtracts := by
  intro s t hstep hchange
  refine (step_results hstep).resolve_left ?_
  rintro ⟨hraw, hscaled, htrunc⟩
  rcases hchange with h | h | h
  · exact h hraw
  · exact h hscaled
  · exact h htrunc

/-- Settles O21: only PUSH, POP and the two resets write the buffer. -/
theorem bufferChangesOnlyByPushPopOrReset : Obligations.BufferChangesOnlyByPushPopOrReset := by
  intro s t hstep hpush hpop hsrst hreset
  cases stepEffect_of_step hstep with
  | idle _ => rfl
  | command rest ha he =>
    cases he with
    | failed _ => rfl
    | decomposed => rfl
    | extracted _ _ _ => rfl
    | pushed b _ => exact absurd ha (hpush b)
    | popped _ => exact absurd ha hpop
    | reset => exact absurd ha hsrst
  | illegal _ _ => rfl
  | hostWrite rest idx v _ => exact hostWrite_buf idx v _
  | hostRead _ _ _ => rfl
  | reset _ ha => exact absurd ha hreset

/-- Settles O22: command by command, each branch is guarded by DESC or the buffer alone. -/
theorem noCommandReadsAFlag : Obligations.NoCommandReadsAFlag :=
  fun _ _ _ e f h => exec_withFlags e f h

/-- Settles O23: guards and host reads see the length of the buffer only, which both states share. -/
theorem bufferedBytesAreHiddenUntilPop : Obligations.BufferedBytesAreHiddenUntilPop :=
  fun _ _ _ hc hpop hstep => step_withBuf hc hpop hstep

end Sys2Proof.Proofs.StateRules
end

section
/-! The register space as the host sees it (20_memory.md): a read's value and its lack of any effect (R63), what
a write stores (R62), unmapped indices (R64), and that a transaction completes without regard to later ones (R61, R72). -/

namespace Sys2Proof.Machine

/-! ## Reads -/

@[simp] theorem hostRead_takeInput (rest : List HostInput) (s : State) (idx : RegIndex) :
    hostRead (takeInput rest s) idx = hostRead s idx :=
  hostRead_congr (readReg_takeInput Config.asmCap rest s) idx

@[simp] theorem hostRead_returnToHost (v : Word) (s : State) (idx : RegIndex) :
    hostRead (returnToHost v s) idx = hostRead s idx :=
  hostRead_congr (readReg_returnToHost Config.asmCap v s) idx

/-- A read gives the host the value of the state before it and changes nothing of the block (R63). -/
theorem step_read {s : State} {idx : RegIndex} {rest : List HostInput} (h : s.pending = .read idx :: rest) :
    step s = .next (returnToHost (hostRead s idx) (takeInput rest s)) := by
  rw [step_transact h rfl, transact, hostRead_takeInput]

/-- Two reads of one index in a row return the same value (R63). -/
theorem run_read_read {s : State} {idx : RegIndex} {rest : List HostInput}
    (h : s.pending = .read idx :: .read idx :: rest) :
    Host.Core.run Sys2Proof.core 2 s =
      .next { s with pending := rest, returned := s.returned ++ [hostRead s idx, hostRead s idx] } := by
  rw [run_succ 1 (step_read h), run_succ 0 (step_read rfl), run_zero, hostRead_returnToHost, hostRead_takeInput]
  simp [returnToHost, takeInput]

theorem hostRead_of_eq_idx (s : State) {idx : RegIndex} (r : Reg) (h : idx = r.idx) :
    hostRead s idx = readReg Config.asmCap s r := by
  rw [h, hostRead_idx]

/-- STATUS as the sum of its fields (R63). -/
theorem readReg_status_toNat (cap : Nat) (s : State) :
    (readReg cap s .status).toNat =
      s.err.toNat + (if s.trunc then 16 else 0) + (if 12 ≤ s.buf.length then 32 else 0) +
        (if s.buf.length = cap then 64 else 0) := by
  simp only [readReg, statusWord, statusBits_toNat, frameReady, bufferIsFull, decide_eq_true_eq]

/-! ## Writes -/

theorem hostWrite_keeps (idx : RegIndex) (v : Word) (s : State) :
    (hostWrite idx v s).err = s.err ∧ (hostWrite idx v s).trunc = s.trunc ∧ (hostWrite idx v s).buf = s.buf ∧
    (hostWrite idx v s).pending = s.pending ∧ (hostWrite idx v s).returned = s.returned := by
  rcases hostWrite_cases idx v s with ⟨r, -, hw⟩ | ⟨-, hw⟩ <;> rw [hw]
  · exact writeReg_keeps r v s
  · exact ⟨rfl, rfl, rfl, rfl, rfl⟩

@[simp] theorem hostWrite_pending (idx : RegIndex) (v : Word) (s : State) :
    (hostWrite idx v s).pending = s.pending := by
  obtain ⟨-, -, -, hpending, -⟩ := hostWrite_keeps idx v s
  exact hpending

theorem descMask_eq_and (v : Word) : descMask v = v &&& 0x0000FFFF := by
  apply BitVec.eq_of_toNat_eq
  rw [descMask_toNat, BitVec.toNat_and]
  exact (Nat.and_two_pow_sub_one_eq_mod v.toNat 16).symm

/-- A write leaves what the host reads of every other index. -/
theorem hostRead_hostWrite_of_ne {idx j : RegIndex} (h : j ≠ idx) (v : Word) (s : State) :
    hostRead (hostWrite idx v s) j = hostRead s j := by
  rcases ofIdx_cases j with ⟨r, rfl⟩ | ⟨hj, -⟩
  · rw [hostRead_idx, hostRead_idx, readReg_hostWrite]
    exact fun ⟨_, hr⟩ => h hr
  · rw [hostRead_unmapped _ hj, hostRead_unmapped _ hj]

/-- A written register reads as the value only if it is readable and writable, DESC as the value's low half (R62). -/
theorem readReg_writeReg_same (cap : Nat) (r : Reg) (v : Word) (s : State) :
    readReg cap (writeReg r v s) r =
      if r.idx.toNat ∈ [2, 3, 4, 6, 7, 8, 9] then v
      else if r.idx = 0x05 then v &&& 0x0000FFFF
      else readReg cap s r := by
  rw [← descMask_eq_and]
  cases r <;> rfl

theorem hostRead_hostWrite_same (idx : RegIndex) (v : Word) (s : State) :
    hostRead (hostWrite idx v s) idx =
      if idx.toNat ∈ [2, 3, 4, 6, 7, 8, 9] then v
      else if idx = 0x05 then v &&& 0x0000FFFF
      else hostRead s idx := by
  rcases ofIdx_cases idx with ⟨r, rfl⟩ | ⟨hidx, -⟩
  · rw [hostWrite_idx, hostRead_idx, hostRead_idx, readReg_writeReg_same]
  · have hlist : idx.toNat ∉ [2, 3, 4, 6, 7, 8, 9] := by
      simp only [List.mem_cons, List.not_mem_nil, or_false]
      omega
    have hdesc : idx ≠ 0x05 := by
      rintro rfl
      exact absurd hidx (by decide)
    rw [hostWrite_unmapped hidx, if_neg hlist, if_neg hdesc]

/-- What the host reads of any index after a write (R62). -/
theorem hostRead_hostWrite (idx : RegIndex) (v : Word) (s : State) (j : RegIndex) :
    hostRead (hostWrite idx v s) j =
      if j = idx ∧ idx.toNat ∈ [2, 3, 4, 6, 7, 8, 9] then v
      else if j = idx ∧ idx = 0x05 then v &&& 0x0000FFFF
      else hostRead s j := by
  by_cases h : j = idx
  · subst h
    simp only [true_and, hostRead_hostWrite_same]
  · simp only [h, false_and, if_false, hostRead_hostWrite_of_ne h]

theorem step_hostWrite {s : State} {idx : RegIndex} {v : Word} {rest : List HostInput} (hidx : idx ≠ 0x00)
    (h : s.pending = .write idx v :: rest) : step s = .next (hostWrite idx v (takeInput rest s)) :=
  step_transact h (commandOf_write hidx v)

/-! ## Every input completes -/

/-- A step answers a next state in which exactly the oldest input is gone (R61, R188). -/
theorem step_next (s : State) : ∃ t, step s = .next t ∧ t.pending = s.pending.tail := by
  rcases step_cases s with ⟨hp, hs⟩ | ⟨v, rest, i, hp, -, hs⟩ | ⟨v, rest, r, hp, -, hs⟩ |
    ⟨idx, v, rest, -, hp, hs⟩ | ⟨idx, rest, hp, hs⟩ | ⟨rest, hp, hs⟩ <;> rw [hs, hp]
  · exact ⟨s, rfl, hp⟩
  · obtain ⟨t, ht, hpending, -⟩ := exec_next i (takeInput rest s)
    exact ⟨t, ht, hpending⟩
  · exact ⟨_, rfl, rfl⟩
  · exact ⟨_, rfl, hostWrite_pending idx v _⟩
  · exact ⟨_, rfl, rfl⟩
  · exact ⟨_, rfl, rfl⟩

/-- As many steps as there are inputs consume them all. -/
theorem run_consumes {n : Nat} {s : State} (h : s.pending.length = n) :
    ∃ t, Host.Core.run Sys2Proof.core n s = .next t ∧ t.pending = [] := by
  induction n generalizing s with
  | zero => exact ⟨s, run_zero s, List.eq_nil_of_length_eq_zero h⟩
  | succ n ih =>
    obtain ⟨t, hstep, hpending⟩ := step_next s
    rw [run_succ n hstep]
    apply ih
    rw [hpending, List.length_tail, h, Nat.add_sub_cancel]

/-! ## Later inputs are not seen -/

@[simp] theorem takeInput_takeInput (later rest : List HostInput) (s : State) :
    takeInput later (takeInput rest s) = takeInput later s := rfl

theorem exec_takeInput {i : Instr} {s t : State} (later : List HostInput) (h : exec i s = .next t) :
    exec i (takeInput later s) = .next (takeInput later t) := by
  cases i with
  | decomp =>
    cases h
    rfl
  | extbyte =>
    change execExtbyte s = .next t at h
    rcases execExtbyte_cases s with ⟨hd, hs⟩ | ⟨h₀, h₁, hlen, hs⟩ | ⟨h₀, h₁, hlen, hs⟩ <;> rw [hs] at h <;> cases h
    · exact exec_extbyte_invalid hd
    · exact exec_extbyte_short h₀ h₁ hlen
    · exact exec_extbyte_ok h₀ h₁ hlen
  | extbit =>
    change execExtbit s = .next t at h
    rcases execExtbit_cases s with ⟨hd, hs⟩ | ⟨h₀, h₁, hs⟩ <;> rw [hs] at h <;> cases h
    · exact exec_extbit_invalid hd
    · exact exec_extbit_ok h₀ h₁
  | push b =>
    cases h
    rcases pushByte_cases Config.asmCap b s with ⟨hlen, hs⟩ | ⟨hlen, hs⟩ <;> rw [hs]
    · exact exec_push_full hlen
    · exact exec_push_room hlen
  | pop =>
    change execPop s = .next t at h
    rcases execPop_cases s with ⟨hlen, hs⟩ | ⟨hlen, hs⟩ <;> rw [hs] at h <;> cases h
    · exact exec_pop_short hlen
    · exact exec_pop_frame hlen
  | srst =>
    cases h
    rfl

theorem runCommand_takeInput {v : Word} {s t : State} (later : List HostInput) (h : runCommand v s = .next t) :
    runCommand v (takeInput later s) = .next (takeInput later t) := by
  rcases hd : decode v with r | i
  · rw [runCommand_error hd] at h ⊢
    cases h
    rfl
  · rw [runCommand_ok hd] at h ⊢
    exact exec_takeInput later h

theorem hostWrite_takeInput (idx : RegIndex) (v : Word) (later : List HostInput) (s : State) :
    hostWrite idx v (takeInput later s) = takeInput later (hostWrite idx v s) := by
  rcases ofIdx_cases idx with ⟨r, rfl⟩ | ⟨hidx, -⟩
  · rw [hostWrite_idx, hostWrite_idx]
    cases r <;> rfl
  · rw [hostWrite_unmapped hidx, hostWrite_unmapped hidx]

theorem transact_takeInput (x : HostInput) (later : List HostInput) (s : State) :
    transact x (takeInput later s) = takeInput later (transact x s) := by
  cases x with
  | write idx v => exact hostWrite_takeInput idx v later s
  | read idx =>
    rw [transact, hostRead_takeInput]
    rfl
  | reset => rfl

theorem step_of_commandOf {s : State} {x : HostInput} {v : Word} {rest : List HostInput}
    (h : s.pending = x :: rest) (hx : commandOf x = some v) : step s = runCommand v (takeInput rest s) := by
  simp only [step, h, hx]

/-- With other later inputs a step answers the same state, but for those inputs (R72). -/
theorem step_takeInput {s t : State} {x : HostInput} {rest : List HostInput} (later : List HostInput)
    (hp : s.pending = x :: rest) (h : step s = .next t) :
    step (takeInput (x :: later) s) = .next (takeInput later t) := by
  cases hx : commandOf x with
  | none =>
    rw [step_transact hp hx, transact_takeInput] at h
    cases h
    rw [step_transact rfl hx, takeInput_takeInput, transact_takeInput, takeInput_takeInput]
  | some v =>
    rw [step_of_commandOf hp hx] at h
    rw [step_of_commandOf rfl hx, takeInput_takeInput, ← takeInput_takeInput later rest]
    exact runCommand_takeInput later h

end Sys2Proof.Machine

namespace Sys2Proof.Proofs.Memory
open Sys2Proof.Machine

/-- Settles O5: a read is answered from the state before it, index by index. -/
theorem hostReadReturnsTheRegisterMap : Obligations.HostReadReturnsTheRegisterMap := by
  intro s idx rest hp
  have hread := hostRead_of_eq_idx s (idx := idx)
  have hstatus (h : idx = 0x01) := (congrArg BitVec.toNat (hread .status h)).trans (readReg_status_toNat _ s)
  have htwice (rest' : List HostInput) (h : rest = .read idx :: rest') := run_read_read (h ▸ hp)
  exact ⟨step_read hp, hread .cmd, hstatus, hread .id, hread .dataLo, hread .dataHi, hread .desc, hread .resLo,
    hread .resHi, hread .offLo, hread .offHi, hread .priority, hread .dataPage, hread .pduFormat,
    hread .pduSpecific, hread .sourceAddress, hread .pgn, hread .rawLo, hread .rawHi, hread .scaledLo,
    hread .scaledHi, hread .asmCount, hostRead_unmapped s, fun rest' h => ⟨_, htwice rest' h⟩⟩

/-- Settles O8: a CMD write by what its word decodes to, any other by what reading each index gives after it. -/
theorem hostWriteActsByRegisterClass : Obligations.HostWriteActsByRegisterClass := by
  intro s idx v rest hp
  refine ⟨?_, fun hidx => ?_⟩
  · rintro rfl
    exact ⟨fun _ hd => (step_command hp).trans (runCommand_ok hd _),
      fun _ hd => (step_command hp).trans (runCommand_error hd _)⟩
  · obtain ⟨herr, htrunc, hbuf, hpending, hreturned⟩ := hostWrite_keeps idx v (takeInput rest s)
    refine ⟨_, step_hostWrite hidx hp, hpending, hreturned, hbuf, herr, htrunc, fun j => ?_⟩
    rw [hostRead_hostWrite, hostRead_takeInput]

/-- Settles O17: one step takes one input, so a run of as many steps takes them all. -/
theorem everyInputCompletes : Obligations.EveryInputCompletes :=
  ⟨step_next, fun _ => run_consumes rfl⟩

/-- Settles O18: neither a command nor any other transaction reads the inputs that are left. -/
theorem transactionsDoNotSeeLaterOnes : Obligations.TransactionsDoNotSeeLaterOnes :=
  fun s _ x rest later h => step_takeInput (s := { s with pending := x :: rest }) later rfl h

/-- Settles O9: no register stands at the index, so a write stores nothing and a read returns 0. -/
theorem unmappedIndicesAreInert : Obligations.UnmappedIndicesAreInert := by
  intro s idx rest hidx
  have hcmd : idx ≠ 0x00 := by
    rintro rfl
    exact absurd hidx (by decide)
  refine ⟨fun v hp => ?_, fun hp => ?_⟩
  · rw [step_hostWrite hcmd hp, hostWrite_unmapped hidx]
    rfl
  · rw [step_read hp, hostRead_unmapped s hidx]
    rfl

end Sys2Proof.Proofs.Memory
end

section
/-! Command words (30_encoding.md): a word as its three fields side by side, each command as an OP and an ARG, the
words a row of the opcode map selects, and the words it leaves illegal. -/

namespace Sys2Proof
open Sys2Proof.Machine (append_byte_toNat extract_toNat)

/-! ## The fields of a word -/

theorem zeroField_toNat (w : Word) : (zeroField w).toNat = w.toNat / 2 ^ 16 := by
  have := w.isLt
  rw [zeroField, extract_toNat]
  omega

theorem argField_toNat (w : Word) : (argField w).toNat = w.toNat / 2 ^ 8 % 2 ^ 8 := extract_toNat w 8 8

/-- A word is its fields side by side (R80). -/
theorem zeroField_append_argField_append_opField (w : Word) : zeroField w ++ argField w ++ opField w = w := by
  apply BitVec.eq_of_toNat_eq
  rw [append_byte_toNat, append_byte_toNat, zeroField_toNat, argField_toNat, opField, extract_toNat]
  omega

theorem commandWord_fields {w : Word} (h : zeroField w = 0) : commandWord (opField w) (argField w) = w := by
  have hw := zeroField_append_argField_append_opField w
  rwa [h] at hw

theorem commandWord_toNat (op arg : Byte) : (commandWord op arg).toNat = arg.toNat * 2 ^ 8 + op.toNat := by
  rw [commandWord, append_byte_toNat, append_byte_toNat, BitVec.toNat_zero, Nat.zero_mul, Nat.zero_add]

/-! ## Decoding and encoding -/

theorem withoutArg_eq_ok_iff {w : Word} {i j : Instr} : withoutArg w i = .ok j ↔ argField w = 0 ∧ i = j := by
  unfold withoutArg
  split <;> simp [*]

theorem decode_encode (i : Instr) : decode (encode i) = .ok i := by
  cases i <;> simp [encode, decode, withoutArg]

/-- A command without a byte has the word of its OP alone. -/
theorem encode_of_withoutArg {w : Word} {op : Byte} {i j : Instr} (hz : zeroField w = 0) (hop : opField w = op)
    (hi : encode i = commandWord op 0) (h : withoutArg w i = .ok j) : encode j = w := by
  obtain ⟨harg, rfl⟩ := withoutArg_eq_ok_iff.mp h
  rw [hi, ← hop, ← harg, commandWord_fields hz]

/-- The decoder's case distinction, OP by OP: a word that decodes is the word of its command. -/
theorem encode_of_decode {w : Word} {i : Instr} (h : decode w = .ok i) : encode i = w := by
  unfold decode at h
  split_ifs at h with hz hdecomp hextbyte hextbit hpush hpop hsrst
  · exact encode_of_withoutArg (not_not.mp hz) hdecomp rfl h
  · exact encode_of_withoutArg (not_not.mp hz) hextbyte rfl h
  · exact encode_of_withoutArg (not_not.mp hz) hextbit rfl h
  · cases h
    rw [encode, ← hpush, commandWord_fields (not_not.mp hz)]
  · exact encode_of_withoutArg (not_not.mp hz) hpop rfl h
  · exact encode_of_withoutArg (not_not.mp hz) hsrst rfl h

theorem decode_eq_ok_iff {w : Word} {i : Instr} : decode w = .ok i ↔ encode i = w :=
  ⟨encode_of_decode, fun h => h ▸ decode_encode i⟩

/-! ## The rows of the opcode map -/

/-- The row of a command without a byte compares the whole word. -/
theorem and_wordMask_eq_iff {w k : Word} : w &&& 0xFFFFFFFF = k ↔ k = w := by
  rw [show (0xFFFFFFFF : Word) = BitVec.allOnes 32 from rfl, BitVec.and_allOnes, eq_comm]

theorem and_pushMask (w : Word) : w &&& 0xFFFF00FF = zeroField w ++ 0#8 ++ opField w :=
  calc w &&& 0xFFFF00FF
      = (zeroField w ++ argField w ++ opField w) &&& (BitVec.allOnes 16 ++ 0#8 ++ BitVec.allOnes 8) := by
        rw [zeroField_append_argField_append_opField]; rfl
    _ = zeroField w ++ 0#8 ++ opField w := by
        simp only [BitVec.and_append, BitVec.and_allOnes, BitVec.and_zero]

/-- PUSH's row leaves ARG out of the comparison. -/
theorem and_pushMask_eq_iff {w : Word} : w &&& 0xFFFF00FF = 4 ↔ w.toNat / 2 ^ 16 = 0 ∧ w.toNat % 2 ^ 8 = 4 := by
  rw [and_pushMask, ← BitVec.toNat_inj, append_byte_toNat, append_byte_toNat, zeroField_toNat, opField, extract_toNat]
  simp only [BitVec.reduceToNat]
  omega

theorem exists_encode_push_iff {w : Word} : (∃ b, encode (.push b) = w) ↔ w &&& 0xFFFF00FF = 4 := by
  rw [and_pushMask_eq_iff]
  simp only [encode, ← BitVec.toNat_inj, commandWord_toNat, BitVec.reduceToNat]
  constructor
  · rintro ⟨b, hb⟩
    omega
  · rintro ⟨hzero, hop⟩
    exact ⟨argField w, by rw [argField_toNat]; omega⟩

/-- The word of a command selects the row of its mnemonic (R84). -/
theorem rowMatch (i : Instr) : Laws.RowMatch.Statement i := by
  cases i with
  | decomp => exact Laws.RowMatch.decomp
  | extbyte => exact Laws.RowMatch.extbyte
  | extbit => exact Laws.RowMatch.extbit
  | push b => exact Laws.RowMatch.push b
  | pop => exact Laws.RowMatch.pop
  | srst => exact Laws.RowMatch.srst

theorem exists_row_of_decode {w : Word} {i : Instr} (h : decode w = .ok i) :
    ∃ r ∈ opcodeRows, w &&& r.mask = r.pattern := by
  have hrow : ∃ r ∈ opcodeRows, r.mnemonic = i.mnemonic := by
    cases i <;> simp [opcodeRows, Instr.mnemonic]
  obtain ⟨r, hr, hname⟩ := hrow
  have hsel := (rowMatch i r hr).mpr hname
  rw [encode_of_decode h] at hsel
  exact ⟨r, hr, beq_iff_eq.mp hsel⟩

/-- Every row compares OP, and no two rows ask for the same OP. -/
theorem opcodeRows_op_injective : ∀ r₁ ∈ opcodeRows, ∀ r₂ ∈ opcodeRows,
    r₁.pattern &&& 0xFF = r₂.pattern &&& 0xFF → r₁ = r₂ := by decide

theorem opcodeRows_mask_op : ∀ r ∈ opcodeRows, r.mask &&& 0xFF = 0xFF := by decide

theorem pattern_op_of_select {w : Word} {r : OpcodeRow} (hr : r ∈ opcodeRows) (h : w &&& r.mask = r.pattern) :
    r.pattern &&& 0xFF = w &&& 0xFF := by
  rw [← h, BitVec.and_assoc, opcodeRows_mask_op r hr]

/-- The words that match no row, by OP, ZERO and ARG (R85). -/
theorem no_row_iff (w : Word) : (∀ r ∈ opcodeRows, w &&& r.mask ≠ r.pattern) ↔
    (w.toNat % 2 ^ 8 = 0 ∨ 7 ≤ w.toNat % 2 ^ 8 ∨ w.toNat / 2 ^ 16 ≠ 0 ∨
      (w.toNat / 2 ^ 8 % 2 ^ 8 ≠ 0 ∧ w.toNat % 2 ^ 8 ∈ [1, 2, 3, 5, 6])) := by
  simp only [opcodeRows, List.forall_mem_cons, and_wordMask_eq_iff, and_pushMask_eq_iff, ne_eq]
  simp only [← BitVec.toNat_inj, BitVec.reduceToNat, List.mem_cons, List.not_mem_nil, or_false,
    false_imp_iff, implies_true, and_true]
  constructor <;> omega

end Sys2Proof

namespace Sys2Proof.Proofs.Encoding
open Sys2Proof.Machine

/-- Settles O11: no command is ill-formed, and a word that decodes is made of the fields the encoder writes. -/
theorem decodeAndEncodeAgree : Obligations.DecodeAndEncodeAgree := by
  intro w i
  have hwf : i.wellFormed = true := by cases i <;> rfl
  rw [decode_eq_ok_iff, hwf]
  exact (and_iff_right rfl).symm

/-- Settles O12: each row's comparison says that the word is its command's, and OP tells the rows apart. -/
theorem wordsSelectCommandsByMatchAndMask : Obligations.WordsSelectCommandsByMatchAndMask := by
  refine ⟨fun w => ?_, fun w b hd => ?_, rfl, fun w r₁ h₁ r₂ h₂ hs₁ hs₂ => ?_⟩
  · simp only [decode_eq_ok_iff, and_wordMask_eq_iff]
    exact ⟨Iff.rfl, Iff.rfl, Iff.rfl, exists_encode_push_iff, Iff.rfl, Iff.rfl⟩
  · rw [← encode_of_decode hd, ← argField_toNat, encode, argField_commandWord]
  · exact opcodeRows_op_injective r₁ h₁ r₂ h₂ ((pattern_op_of_select h₁ hs₁).trans (pattern_op_of_select h₂ hs₂).symm)

/-- Settles O13: a word that decoded would select a row, so a word of no row raises IllegalCommand. -/
theorem illegalWordsOnlySetErr : Obligations.IllegalWordsOnlySetErr := by
  refine ⟨no_row_iff, fun s w rest hp hnone => ?_⟩
  rw [step_command hp]
  rcases hd : decode w with e | i
  · exact runCommand_error hd _
  · obtain ⟨r, hr, hsel⟩ := exists_row_of_decode hd
    exact absurd hsel (hnone r hr)

/-- Settles O14: the decoder evaluates on each word. -/
theorem sampleWordsDecodeAsTheTableSays : Obligations.SampleWordsDecodeAsTheTableSays := by
  unfold Obligations.SampleWordsDecodeAsTheTableSays
  decide

end Sys2Proof.Proofs.Encoding
end

section
/-! Rounding (R126, R127): the magnitude bits `roundedBits` computes stand for the finite binary64 nearest to the
quotient, ties to the even significand, and for an infinity from the overflow threshold on. -/

namespace Sys2Proof.Machine

/-! ## Magnitude bits and their units -/

/-- The units of 2^-1074 a finite pattern's magnitude bits stand for. -/
def magnitudeUnits (b : Nat) : Nat :=
  if b / 2 ^ 52 = 0 then b else (2 ^ 52 + b % 2 ^ 52) * 2 ^ (b / 2 ^ 52 - 1)

theorem fpValue_fpPattern (g : Bool) {b : Nat} (h : b < infinityBits) :
    fpValue (fpPattern g b) = .finite g (magnitudeUnits b) := by
  unfold infinityBits at h
  obtain ⟨hexponent, hfraction, hsign⟩ := fpPattern_fields g b (by omega)
  have hfinite : b / 2 ^ 52 ≠ 2047 := by omega
  rw [fpValue, hexponent, hfraction, hsign, if_neg hfinite, magnitudeUnits]
  split
  · rw [Nat.mod_eq_of_lt (by omega)]
  · rfl

/-- A significand of at most 53 bits in the low bits, with the count of bits dropped added into the exponent field,
stands for the significand times that power of two; with 2^53 the carry goes into the exponent. -/
theorem magnitudeUnits_significand {t m : Nat} (hm : m ≤ 2 ^ 53) (h : t = 0 ∨ 2 ^ 52 ≤ m) :
    magnitudeUnits (2 ^ 52 * t + m) = m * 2 ^ t := by
  unfold magnitudeUnits
  rcases Nat.lt_or_ge m (2 ^ 52) with hlow | hhigh
  · obtain rfl : t = 0 := by omega
    rw [if_pos (by omega)]
    omega
  rcases Nat.lt_or_eq_of_le hm with hlt | rfl
  · have hexponent : (2 ^ 52 * t + m) / 2 ^ 52 = t + 1 := by omega
    have hfraction : 2 ^ 52 + (2 ^ 52 * t + m) % 2 ^ 52 = m := by omega
    rw [hexponent, hfraction, if_neg (by omega), Nat.add_sub_cancel]
  · have hexponent : (2 ^ 52 * t + 2 ^ 53) / 2 ^ 52 = t + 2 := by omega
    have hfraction : (2 ^ 52 * t + 2 ^ 53) % 2 ^ 52 = 0 := by omega
    rw [hexponent, hfraction, if_neg (by omega), show t + 2 - 1 = t + 1 from rfl, pow_succ]
    omega

/-! ## The count of bits dropped -/

theorem lt_two_pow_dropCount (q : Nat) : q < 2 ^ (53 + dropCount q) := by
  have hlog : q < 2 ^ (q.log2 + 1) := Nat.lt_log2_self
  exact Nat.lt_of_lt_of_le hlog (Nat.pow_le_pow_right (by decide) (by unfold dropCount; omega))

theorem two_pow_dropCount_le {q : Nat} (h : dropCount q ≠ 0) : 2 ^ (52 + dropCount q) ≤ q := by
  unfold dropCount at h ⊢
  have hq : q ≠ 0 := by
    rintro rfl
    simp at h
  rw [Nat.add_sub_cancel' (by omega)]
  exact Nat.log2_self_le hq

/-- What is left of a quotient has 53 bits, or all of the quotient's when none is dropped. -/
theorem quotient_lt (n d : Nat) : n / (d * 2 ^ dropCount (n / d)) < 2 ^ 53 := by
  rw [← Nat.div_div_eq_div_mul, Nat.div_lt_iff_lt_mul (Nat.two_pow_pos _), ← pow_add]
  exact lt_two_pow_dropCount _

theorem le_quotient {n d : Nat} (h : dropCount (n / d) ≠ 0) : 2 ^ 52 ≤ n / (d * 2 ^ dropCount (n / d)) := by
  rw [← Nat.div_div_eq_div_mul, Nat.le_div_iff_mul_le (Nat.two_pow_pos _), ← pow_add]
  exact two_pow_dropCount_le h

/-! ## Rounding to nearest, ties to even -/

theorem nearestEven_cases (n d : Nat) :
    (nearestEven n d = n / d ∧ (2 * (n % d) < d ∨ (2 * (n % d) = d ∧ n / d % 2 = 0))) ∨
    (nearestEven n d = n / d + 1 ∧ (d < 2 * (n % d) ∨ (2 * (n % d) = d ∧ n / d % 2 = 1))) := by
  unfold nearestEven
  split
  · exact .inr ⟨rfl, ‹_›⟩
  · exact .inl ⟨rfl, by omega⟩

/-- No value outside the gap between `n / d` rounded down and rounded up is nearer to it than the rounded one, and one
as near makes that even. -/
theorem nearestEven_nearest {n d : Nat} (hd : 0 < d) {k : Nat} (hk : k ≤ d * (n / d) ∨ d * (n / d + 1) ≤ k) :
    ((n : Int) - (d * nearestEven n d : Nat)).natAbs ≤ ((n : Int) - (k : Nat)).natAbs ∧
    (k ≠ d * nearestEven n d → ((n : Int) - (d * nearestEven n d : Nat)).natAbs = ((n : Int) - (k : Nat)).natAbs →
      nearestEven n d % 2 = 0) := by
  have hdiv := Nat.div_add_mod n d
  have hmod := Nat.mod_lt n hd
  rw [Nat.mul_add, Nat.mul_one] at hk
  rcases nearestEven_cases n d with ⟨hm, hround⟩ | ⟨hm, hround⟩ <;> rw [hm]
  · omega
  · rw [Nat.mul_add, Nat.mul_one]
    omega

/-- No finite value lies strictly between the two multiples of 2^t next to the quotient. -/
theorem finite_outside_gap {p : DWord} {g : Bool} {v : Nat} (hv : fpValue p = .finite g v) {a t : Nat}
    (ha : t = 0 ∨ 2 ^ 52 ≤ a) : v ≤ a * 2 ^ t ∨ (a + 1) * 2 ^ t ≤ v := by
  obtain ⟨s, e, rfl, hs⟩ := fpValue_significant hv
  rcases Nat.lt_or_ge e t with het | hte
  · left
    obtain ⟨k, rfl⟩ := Nat.exists_eq_add_of_lt het
    calc s * 2 ^ e ≤ 2 ^ 53 * 2 ^ (e + k) := Nat.mul_le_mul hs.le (Nat.pow_le_pow_right (by decide) (by omega))
      _ = 2 ^ 52 * 2 ^ (e + k + 1) := by ring
      _ ≤ a * 2 ^ (e + k + 1) := Nat.mul_le_mul_right _ (by omega)
  · obtain ⟨k, rfl⟩ := Nat.exists_eq_add_of_le hte
    rw [pow_add, Nat.mul_left_comm, Nat.mul_comm _ (s * 2 ^ k)]
    rcases Nat.lt_or_ge a (s * 2 ^ k) with h | h
    · exact .inr (Nat.mul_le_mul_right _ h)
    · exact .inl (Nat.mul_le_mul_right _ h)

theorem nearestEven_le (n d : Nat) : nearestEven n (d * 2 ^ dropCount (n / d)) ≤ 2 ^ 53 := by
  have hlt := quotient_lt n d
  rcases nearestEven_cases n (d * 2 ^ dropCount (n / d)) with ⟨hm, -⟩ | ⟨hm, -⟩ <;> omega

theorem le_nearestEven (n d : Nat) :
    dropCount (n / d) = 0 ∨ 2 ^ 52 ≤ nearestEven n (d * 2 ^ dropCount (n / d)) := by
  by_cases h : dropCount (n / d) = 0
  · exact .inl h
  · have hle := le_quotient h
    rcases nearestEven_cases n (d * 2 ^ dropCount (n / d)) with ⟨hm, -⟩ | ⟨hm, -⟩ <;> omega

/-! ## Overflow -/

theorem nearestEven_le_of_lt {n e c : Nat} (h : n < (2 * c + 1) * e) : nearestEven n (2 * e) ≤ c := by
  have he : 0 < e := Nat.pos_of_mul_pos_left (Nat.zero_lt_of_lt h)
  have hdiv := Nat.div_add_mod n (2 * e)
  have hle : n / (2 * e) ≤ c := Nat.lt_succ_iff.mp ((Nat.div_lt_iff_lt_mul (by omega)).mpr (by linarith))
  rcases nearestEven_cases n (2 * e) with ⟨hm, -⟩ | ⟨hm, hround⟩ <;> rw [hm]
  · exact hle
  · refine Nat.lt_of_le_of_ne hle fun hc => ?_
    rw [hc] at hdiv
    have hmod : n % (2 * e) < e := by linarith
    omega

theorem lt_nearestEven_of_le {n e c : Nat} (he : 0 < e) (hodd : c % 2 = 1) (h : (2 * c + 1) * e ≤ n) :
    c < nearestEven n (2 * e) := by
  have hdiv := Nat.div_add_mod n (2 * e)
  have hle : c ≤ n / (2 * e) := (Nat.le_div_iff_mul_le (by omega)).mpr (by linarith)
  rcases nearestEven_cases n (2 * e) with ⟨hm, hround⟩ | ⟨hm, -⟩ <;> rw [hm]
  · refine Nat.lt_of_le_of_ne hle fun hc => ?_
    rw [← hc] at hdiv hround
    have hmod : e ≤ n % (2 * e) := by linarith
    omega
  · omega

theorem dropCount_le_of_lt {q k : Nat} (h : q < 2 ^ (54 + k)) : dropCount q ≤ k + 1 := by
  by_contra! hdrop
  have hpow : 2 ^ (54 + k) ≤ 2 ^ (52 + dropCount q) := Nat.pow_le_pow_right (by decide) (by omega)
  exact absurd (two_pow_dropCount_le (q := q) (by omega)) (Nat.not_le.mpr (h.trans_le hpow))

theorem le_dropCount_of_le {q k : Nat} (h : 2 ^ (53 + k) ≤ q) : k + 1 ≤ dropCount q := by
  by_contra! hdrop
  have hpow : 2 ^ (53 + dropCount q) ≤ 2 ^ (53 + k) := Nat.pow_le_pow_right (by decide) (by omega)
  exact absurd (lt_two_pow_dropCount q) (Nat.not_lt.mpr (hpow.trans h))

/-- Below the largest 53-bit significand at exponent field `k + 2` and half its last place, the exponent field of the
rounded magnitude bits stays below `k + 3`. -/
theorem significandBits_lt {n d k : Nat} (h : n < d * ((2 ^ 54 - 1) * 2 ^ k)) :
    2 ^ 52 * dropCount (n / d) + nearestEven n (d * 2 ^ dropCount (n / d)) < (k + 3) * 2 ^ 52 := by
  have hm := nearestEven_le n d
  have hq : n / d < 2 ^ (54 + k) := by
    rw [pow_add]
    exact (Nat.div_lt_of_lt_mul h).trans_le (Nat.mul_le_mul_right _ (by decide))
  rcases Nat.lt_or_eq_of_le (dropCount_le_of_lt hq) with hdrop | hdrop
  · omega
  · have hlast : nearestEven n (2 * (d * 2 ^ k)) ≤ 2 ^ 53 - 1 := by
      apply nearestEven_le_of_lt
      rwa [Nat.mul_left_comm]
    have hscale : d * 2 ^ (k + 1) = 2 * (d * 2 ^ k) := by ring
    rw [hdrop, hscale]
    omega

/-- From there on it reaches `k + 3`. -/
theorem le_significandBits {n d k : Nat} (hd : 0 < d) (h : d * ((2 ^ 54 - 1) * 2 ^ k) ≤ n) :
    (k + 3) * 2 ^ 52 ≤ 2 ^ 52 * dropCount (n / d) + nearestEven n (d * 2 ^ dropCount (n / d)) := by
  have hm := le_nearestEven n d
  have hq : 2 ^ (53 + k) ≤ n / d := by
    rw [pow_add, Nat.le_div_iff_mul_le hd, Nat.mul_comm]
    exact (Nat.mul_le_mul_left d (Nat.mul_le_mul_right _ (by decide))).trans h
  rcases Nat.lt_or_eq_of_le (le_dropCount_of_le hq) with hdrop | hdrop
  · omega
  · have hlast : 2 ^ 53 - 1 < nearestEven n (2 * (d * 2 ^ k)) := by
      apply lt_nearestEven_of_le (Nat.mul_pos hd (Nat.two_pow_pos _)) (by decide)
      rwa [Nat.mul_left_comm]
    have hscale : d * 2 ^ (k + 1) = 2 * (d * 2 ^ k) := by ring
    rw [← hdrop, hscale]
    omega

/-! ## Correct rounding -/

theorem unitsGap_eq (n d u : Nat) : unitsGap n d u = ((n : Int) - (d * u : Nat)).natAbs := by
  rw [unitsGap, Nat.cast_mul]

/-- The significand rounded to nearest even is nearest among all finite values. -/
theorem nearestEvenUnits_significand {n d : Nat} (hd : 0 < d) {p : DWord}
    (hp : nearestEven n (d * 2 ^ dropCount (n / d)) % 2 = 0 → fractionField p % 2 = 0) :
    NearestEvenUnits n d p (nearestEven n (d * 2 ^ dropCount (n / d)) * 2 ^ dropCount (n / d)) := by
  intro q g v hv
  have hout : d * v ≤ d * 2 ^ dropCount (n / d) * (n / (d * 2 ^ dropCount (n / d))) ∨
      d * 2 ^ dropCount (n / d) * (n / (d * 2 ^ dropCount (n / d)) + 1) ≤ d * v := by
    simp only [Nat.mul_assoc d, Nat.mul_comm (2 ^ dropCount (n / d)) (_ + 1)]
    rw [Nat.mul_comm (2 ^ dropCount (n / d)) (n / _)]
    exact (finite_outside_gap hv (Classical.or_iff_not_imp_left.mpr le_quotient)).imp
      (Nat.mul_le_mul_left d) (Nat.mul_le_mul_left d)
  obtain ⟨hle, htie⟩ := nearestEven_nearest (Nat.mul_pos hd (Nat.two_pow_pos _)) hout
  rw [unitsGap_eq, unitsGap_eq, Nat.mul_comm _ (2 ^ dropCount (n / d)), ← Nat.mul_assoc]
  refine ⟨hle, fun hne hgap => hp (htie (fun hk => hne ?_) hgap)⟩
  rw [Nat.mul_assoc] at hk
  exact Nat.eq_of_mul_eq_mul_left hd hk

/-- The pattern of any sign over the rounded magnitude bits of `n / d` is the correctly rounded one (R126, R127). -/
theorem roundsTo_roundedBits (n : Nat) {d : Nat} (hd : 0 < d) (g : Bool) :
    RoundsTo n d g (fpPattern g (roundedBits n d)) := by
  constructor
  · intro h
    have hlt : _ < infinityBits := significandBits_lt (k := 2044) h
    have hbits : roundedBits n d =
        2 ^ 52 * dropCount (n / d) + nearestEven n (d * 2 ^ dropCount (n / d)) := Nat.min_eq_left hlt.le
    have hvalue := fpValue_fpPattern g hlt
    rw [magnitudeUnits_significand (nearestEven_le n d) (le_nearestEven n d)] at hvalue
    rw [hbits]
    refine ⟨_, hvalue, nearestEvenUnits_significand hd fun heven => ?_⟩
    obtain ⟨-, hfraction, -⟩ := fpPattern_fields g _ (hlt.trans (by decide))
    rw [hfraction]
    omega
  · intro h
    have hbits : roundedBits n d = infinityBits := Nat.min_eq_right (le_significandBits (k := 2044) hd h)
    rw [hbits, fpValue_infinityBits]

end Sys2Proof.Machine
end

section
/-! Host program lines (R83, R87, R88): the numbers a line packs into words, and what the block holds after the host
has issued the expansion of a line. -/

namespace Sys2Proof.Machine

/-! ## Numbers packed into words -/

theorem or_shiftLeft_eq_add {x n : Nat} (hx : x < 2 ^ n) (y : Nat) : x ||| (y <<< n) = x + y * 2 ^ n := by
  rw [Nat.or_comm, ← Nat.shiftLeft_add_eq_or_of_lt hx, Nat.shiftLeft_eq, Nat.add_comm]

theorem isByte_iff {n : Nat} : isByte n = true ↔ n < 2 ^ 8 := decide_eq_true_iff

theorem isWord_iff {n : Nat} : isWord n = true ↔ n < 2 ^ 32 := decide_eq_true_iff

/-- The word of `setdata` is the four bytes, lowest first (R88). -/
theorem dataWord_eq_le32 {b0 b1 b2 b3 : Nat} (h0 : b0 < 2 ^ 8) (h1 : b1 < 2 ^ 8) (h2 : b2 < 2 ^ 8) :
    dataWord b0 b1 b2 b3 =
      le32 (BitVec.ofNat 8 b0) (BitVec.ofNat 8 b1) (BitVec.ofNat 8 b2) (BitVec.ofNat 8 b3) := by
  apply BitVec.eq_of_toNat_eq
  rw [dataWord, le32_toNat, or_shiftLeft_eq_add h0, or_shiftLeft_eq_add (x := b0 + b1 * 2 ^ 8) (by omega),
    or_shiftLeft_eq_add (x := b0 + b1 * 2 ^ 8 + b2 * 2 ^ 16) (by omega)]
  simp only [BitVec.toNat_ofNat]
  omega

/-- A START and a LENGTH that are bytes come out of DESC as they were packed (R26). -/
theorem desc_fields_of_packed {s : State} {start length : Nat} (hs : start < 2 ^ 8) (hl : length < 2 ^ 8)
    (h : s.desc = descMask (BitVec.ofNat 32 (start ||| (length <<< 8)))) :
    descStart s = start ∧ descLength s = length := by
  obtain ⟨hstart, hlength⟩ := desc_fields_of_descMask h
  rw [or_shiftLeft_eq_add hs, BitVec.toNat_ofNat] at hstart hlength
  omega

theorem clampField_lt (n : Nat) : clampField n < 2 ^ 8 := by
  unfold clampField
  omega

theorem encode_push_ofNat {b : Nat} (h : b < 2 ^ 8) :
    encode (.push (BitVec.ofNat 8 b)) = BitVec.ofNat 32 (4 ||| (b <<< 8)) := by
  apply BitVec.eq_of_toNat_eq
  rw [encode, commandWord_toNat, or_shiftLeft_eq_add (by decide)]
  simp only [BitVec.toNat_ofNat]
  omega

theorem map_toNat_map_ofNat {bs : List Nat} (h : ∀ b ∈ bs, b < 2 ^ 8) :
    (bs.map (BitVec.ofNat 8)).map BitVec.toNat = bs := by
  rw [List.map_map, List.map_congr_left, List.map_id]
  exact fun b hb => Nat.mod_eq_of_lt (h b hb)

/-! ## Runs of an expansion -/

theorem step_writeTo {r : Reg} (hr : r ≠ .cmd) {v : Word} {rest : List HostInput} {s : State}
    (h : s.pending = writeTo r v :: rest) : step s = .next (writeReg r v (takeInput rest s)) := by
  rw [step_hostWrite (fun h' => hr (idx_inj (r' := .cmd) h')) h, hostWrite_idx]

theorem step_issue {i : Instr} {rest : List HostInput} {s : State} (h : s.pending = issue i :: rest) :
    step s = exec i (takeInput rest s) :=
  (step_command h).trans (runCommand_ok (decode_encode i) _)

/-- Two register writes in a row. -/
theorem run_two_writes {r₁ r₂ : Reg} (h₁ : r₁ ≠ .cmd) (h₂ : r₂ ≠ .cmd) {v₁ v₂ : Word} {rest : List HostInput}
    {s : State} (h : s.pending = writeTo r₁ v₁ :: writeTo r₂ v₂ :: rest) :
    Host.Core.run Sys2Proof.core 2 s =
      .next (writeReg r₂ v₂ (takeInput rest (writeReg r₁ v₁ (takeInput (writeTo r₂ v₂ :: rest) s)))) := by
  rw [run_write 1 h₁ h, run_write 0 h₂ (writeReg_pending _ _ _), run_zero]

/-- Bytes pushed with room for them stand at the buffer's tail, in order, and the last PUSH ends OK (R151). -/
theorem run_pushes (bs : List Byte) {rest : List HostInput} {s : State}
    (hp : s.pending = bs.map (fun b => issue (.push b)) ++ rest) (hroom : s.buf.length + bs.length ≤ Config.asmCap) :
    ∃ t, Host.Core.run Sys2Proof.core bs.length s = .next t ∧ (s.err = 0 ∨ bs ≠ [] → t.err = 0) ∧
      t.buf = s.buf ++ bs ∧ t.pending = rest := by
  induction bs generalizing s with
  | nil => exact ⟨s, run_zero s, by simp, by simp, hp⟩
  | cons b bs ih =>
    rw [List.length_cons] at hroom
    have hstep := (step_issue hp).trans (exec_push_room (b := b) (by rw [takeInput_buf]; omega))
    obtain ⟨t, hrun, herr, hbuf, hpending⟩ :=
      ih (s := finishOk (appendByte b (takeInput (bs.map (fun b => issue (.push b)) ++ rest) s))) rfl (by
        simp only [finishOk_buf, appendByte_buf, takeInput_buf, List.length_append, List.length_singleton]
        omega)
    refine ⟨t, (run_succ _ hstep).trans hrun, fun _ => herr (.inl rfl), ?_, hpending⟩
    rw [hbuf, finishOk_buf, appendByte_buf, takeInput_buf, List.append_assoc, List.singleton_append]

/-! ## Line by line -/

theorem expand_wr {idx value : Nat} (h : (AsmLine.wr idx value).wellFormed = true) :
    ∃ j w, (AsmLine.wr idx value).expand = [.write j w] ∧ j.toNat = idx ∧ w.toNat = value := by
  obtain ⟨hidx, hvalue⟩ := Bool.and_eq_true_iff.mp h
  exact ⟨_, _, rfl, Nat.mod_eq_of_lt (isByte_iff.mp hidx), Nat.mod_eq_of_lt (isWord_iff.mp hvalue)⟩

theorem expand_rd {idx : Nat} (h : (AsmLine.rd idx).wellFormed = true) :
    ∃ j, (AsmLine.rd idx).expand = [.read j] ∧ j.toNat = idx :=
  ⟨_, rfl, Nat.mod_eq_of_lt (isByte_iff.mp h)⟩

theorem expand_push {b : Nat} (h : b < 2 ^ 8) :
    (AsmLine.push b).expand = [.write 0x00 (BitVec.ofNat 32 (4 ||| (b <<< 8)))] := by
  rw [AsmLine.expand, issue, encode_push_ofNat h]
  rfl

theorem step_setid {s : State} {v : Nat} {rest : List HostInput} (h : (AsmLine.setid v).wellFormed = true)
    (hp : s.pending = (AsmLine.setid v).expand ++ rest) : ∃ t, step s = .next t ∧ t.id.toNat = v ∧ t.pending = rest :=
  ⟨_, step_writeTo (r := .id) (by decide) hp, Nat.mod_eq_of_lt (isWord_iff.mp h), rfl⟩

theorem run_setdata {s : State} {b0 b1 b2 b3 b4 b5 b6 b7 : Nat} {rest : List HostInput}
    (h : (AsmLine.setdata b0 b1 b2 b3 b4 b5 b6 b7).wellFormed = true)
    (hp : s.pending = (AsmLine.setdata b0 b1 b2 b3 b4 b5 b6 b7).expand ++ rest) :
    ∃ t, Host.Core.run Sys2Proof.core 2 s = .next t ∧
      ∀ i, i < 8 → (payloadByte t i).toNat = [b0, b1, b2, b3, b4, b5, b6, b7][i]! := by
  refine ⟨_, run_two_writes (r₁ := .dataLo) (r₂ := .dataHi) (by decide) (by decide) hp, fun i hi => ?_⟩
  simp only [AsmLine.wellFormed, List.all_cons, List.all_nil, Bool.and_true, Bool.and_eq_true, isByte_iff] at h
  obtain ⟨h0, h1, h2, h3, h4, h5, h6, h7⟩ := h
  change (byteOf (dataWord b0 b1 b2 b3) (dataWord b4 b5 b6 b7) i).toNat = _
  rw [dataWord_eq_le32 h0 h1 h2, dataWord_eq_le32 h4 h5 h6, byteOf_le32 _ _ _ _ _ _ _ _ i hi]
  interval_cases i <;> exact Nat.mod_eq_of_lt ‹_›

theorem step_setdesc {s : State} {start length : Nat} {rest : List HostInput}
    (h : (AsmLine.setdesc start length).wellFormed = true)
    (hp : s.pending = (AsmLine.setdesc start length).expand ++ rest) :
    ∃ t, step s = .next t ∧ descStart t = start ∧ descLength t = length := by
  obtain ⟨hstart, hlength⟩ := Bool.and_eq_true_iff.mp h
  exact ⟨_, step_writeTo (r := .desc) (by decide) hp,
    desc_fields_of_packed (isByte_iff.mp hstart) (isByte_iff.mp hlength) rfl⟩

theorem run_setres {s : State} {f : Decimal} {rest : List HostInput}
    (hp : s.pending = (AsmLine.setres f).expand ++ rest) :
    ∃ t, Host.Core.run Sys2Proof.core 2 s = .next t ∧ resolution t = f.bits :=
  ⟨_, run_two_writes (r₁ := .resLo) (r₂ := .resHi) (by decide) (by decide) hp, hiHalf_append_loHalf f.bits⟩

theorem run_setoff {s : State} {f : Decimal} {rest : List HostInput}
    (hp : s.pending = (AsmLine.setoff f).expand ++ rest) :
    ∃ t, Host.Core.run Sys2Proof.core 2 s = .next t ∧ offset t = f.bits :=
  ⟨_, run_two_writes (r₁ := .offLo) (r₂ := .offHi) (by decide) (by decide) hp, hiHalf_append_loHalf f.bits⟩

theorem expand_pushn (bs : List Nat) : (AsmLine.pushn bs).expand = bs.flatMap fun b => (AsmLine.push b).expand :=
  List.map_eq_flatMap

theorem run_pushn {s : State} {bs : List Nat} {rest : List HostInput} (h : (AsmLine.pushn bs).wellFormed = true)
    (hp : s.pending = (AsmLine.pushn bs).expand ++ rest) (hroom : s.buf.length + bs.length ≤ Config.asmCap) :
    ∃ t, Host.Core.run Sys2Proof.core bs.length s = .next t ∧ t.err = 0 ∧
      t.buf.map BitVec.toNat = s.buf.map BitVec.toNat ++ bs ∧ t.pending = rest := by
  obtain ⟨hne, hbytes⟩ : bs ≠ [] ∧ ∀ b ∈ bs, b < 2 ^ 8 := by
    simpa [AsmLine.wellFormed, isByte_iff] using h
  obtain ⟨t, hrun, herr, hbuf, hpending⟩ := run_pushes (bs.map (BitVec.ofNat 8)) (rest := rest) (s := s)
    (by rw [hp, List.map_map]; rfl) (by rwa [List.length_map])
  rw [List.length_map] at hrun
  refine ⟨t, hrun, herr (.inr (mt List.map_eq_nil_iff.mp hne)), ?_, hpending⟩
  rw [hbuf, List.map_append, map_toNat_map_ofNat hbytes]

end Sys2Proof.Machine

namespace Sys2Proof.Proofs.Encoding
open Sys2Proof.Machine

/-- Settles O48: five register writes, of which the first fills DESC from two bytes. -/
theorem conveyedDefinitionsReachTheOperands : Obligations.ConveyedDefinitionsReachTheOperands := by
  intro s d start length i rest hposition hp
  have hconvey : d.position.convey = (writeTo .desc (descOf start length), i) := by
    rcases hposition with ⟨hd, rfl⟩ | ⟨hd, rfl⟩ <;> rw [hd] <;> rfl
  rw [SpnDefinition.convey, hconvey] at hp
  rw [run_write 4 (by decide) hp, run_write 3 (by decide) (writeReg_pending _ _ _),
    run_write 2 (by decide) (writeReg_pending _ _ _), run_write 1 (by decide) (writeReg_pending _ _ _),
    run_write 0 (by decide) (writeReg_pending _ _ _), run_zero]
  simp only [writeReg_desc, writeReg_resLo, writeReg_resHi, writeReg_offLo, writeReg_offHi, takeInput]
  obtain ⟨hstart, hlength⟩ := desc_fields_of_packed
    (s := writeReg .desc (descOf start length) s) (clampField_lt start) (clampField_lt length) rfl
  exact ⟨_, rfl, hstart, hlength, hiHalf_append_loHalf _, hiHalf_append_loHalf _, rfl, rfl, rfl⟩

/-- Settles O49: line by line, its transactions and what they leave in the block. -/
theorem assemblerLinesDoWhatTheyName : Obligations.AssemblerLinesDoWhatTheyName :=
  ⟨fun _ _ => expand_wr, fun _ => expand_rd, ⟨rfl, rfl, rfl, rfl, rfl⟩, fun _ => expand_push,
    fun _ _ _ => step_setid, fun _ _ _ _ _ _ _ _ _ _ => run_setdata, fun _ _ _ _ => step_setdesc,
    fun f => roundsTo_roundedBits _ (Nat.pow_pos (by decide)) f.negative,
    fun _ _ _ => run_setres, fun _ _ _ => run_setoff, fun bs _ => expand_pushn bs, fun _ _ _ => run_pushn⟩

end Sys2Proof.Proofs.Encoding
end

section
/-! The identifier decomposer (40_id_decompose.md): each header field as a number, which bits of ID the fields are made
of, and composing as the inverse of decomposing. -/

namespace Sys2Proof.Machine

/-! ## The fields as numbers -/

/-- A slice of a word as a register holds it. -/
theorem zeroExtend_extract (w : Word) (lo width : Nat) :
    (w.extractLsb' lo width).zeroExtend 32 = BitVec.ofNat 32 (w.toNat / 2 ^ lo % 2 ^ width) := by
  rw [← extract_toNat, BitVec.ofNat_toNat]

theorem idPgn_toNat (id : Word) :
    (idPgn id).toNat = id.toNat / 2 ^ 16 % 2 ^ 8 * 2 ^ 8 + id.toNat / 2 ^ 8 % 2 ^ 8 := by
  rw [idPgn, append_byte_toNat, idPduFormat, idPduSpecific, extract_toNat, extract_toNat]

/-- DECOMP, field by field, as quotients and remainders of ID (R100, R102). -/
theorem exec_decomp (s : State) : exec .decomp s = .next { s with
    priority := BitVec.ofNat 32 (s.id.toNat / 2 ^ 26 % 2 ^ 3)
    dataPage := BitVec.ofNat 32 (s.id.toNat / 2 ^ 24 % 2)
    pduFormat := BitVec.ofNat 32 (s.id.toNat / 2 ^ 16 % 2 ^ 8)
    pduSpecific := BitVec.ofNat 32 (s.id.toNat / 2 ^ 8 % 2 ^ 8)
    sourceAddress := BitVec.ofNat 32 (s.id.toNat % 2 ^ 8)
    pgn := BitVec.ofNat 32 (s.id.toNat / 2 ^ 16 % 2 ^ 8 * 2 ^ 8 + s.id.toNat / 2 ^ 8 % 2 ^ 8)
    err := 0 } := by
  have hsource : (idSourceAddress s.id).zeroExtend 32 = BitVec.ofNat 32 (s.id.toNat % 2 ^ 8) := by
    rw [idSourceAddress, zeroExtend_extract, pow_zero, Nat.div_one]
  have hpgn : (idPgn s.id).zeroExtend 32 =
      BitVec.ofNat 32 (s.id.toNat / 2 ^ 16 % 2 ^ 8 * 2 ^ 8 + s.id.toNat / 2 ^ 8 % 2 ^ 8) := by
    rw [← idPgn_toNat, BitVec.ofNat_toNat]
  change execDecomp s = _
  rw [execDecomp, hsource, hpgn, idPriority, idDataPage, idPduFormat, idPduSpecific, zeroExtend_extract,
    zeroExtend_extract, zeroExtend_extract, zeroExtend_extract]
  rfl

/-! ## The bits a field is made of -/

/-- Words that agree under a mask agree in every slice where the mask is all ones. -/
theorem extract_eq_of_and_eq {w w' mask : Word} (h : w &&& mask = w' &&& mask) {lo width : Nat}
    (hmask : mask.extractLsb' lo width = BitVec.allOnes width) :
    w.extractLsb' lo width = w'.extractLsb' lo width := by
  have hslice := congrArg (BitVec.extractLsb' lo width) h
  rwa [BitVec.extractLsb'_and, BitVec.extractLsb'_and, hmask, BitVec.and_allOnes, BitVec.and_allOnes] at hslice

/-- A slice of a number, put back in its place, is the number masked to the slice. -/
theorem shiftLeft_slice (n lo width : Nat) :
    (n / 2 ^ lo % 2 ^ width) <<< lo = n &&& ((2 ^ width - 1) <<< lo) := by
  apply Nat.eq_of_testBit_eq
  intro i
  rw [Nat.testBit_and, Nat.testBit_shiftLeft, Nat.testBit_shiftLeft, Nat.testBit_mod_two_pow,
    Nat.testBit_div_two_pow, Nat.testBit_two_pow_sub_one]
  by_cases hi : lo ≤ i
  · rw [Nat.sub_add_cancel hi, decide_eq_true hi, Bool.true_and, Bool.true_and, Bool.and_comm]
  · rw [decide_eq_false hi, Bool.false_and, Bool.false_and, Bool.and_false]

/-! ## Composing -/

/-- Fields in range do not overlap in a composed identifier (R104). -/
theorem compose_toNat {p dp pf ps sa : Nat} (hp : p < 8) (hdp : dp < 2) (hpf : pf < 256) (hps : ps < 256)
    (hsa : sa < 256) :
    (compose p dp pf ps sa).toNat = sa + ps * 2 ^ 8 + pf * 2 ^ 16 + dp * 2 ^ 24 + p * 2 ^ 26 := by
  rw [compose, Nat.or_comm _ sa, Nat.or_comm _ (ps <<< 8), Nat.or_comm _ (pf <<< 16), Nat.or_comm _ (dp <<< 24),
    ← Nat.or_assoc, ← Nat.or_assoc, ← Nat.or_assoc, or_shiftLeft_eq_add (n := 8) hsa,
    or_shiftLeft_eq_add (n := 16) (by omega), or_shiftLeft_eq_add (n := 24) (by omega),
    or_shiftLeft_eq_add (n := 26) (by omega), BitVec.toNat_ofNat]
  omega

/-- Composing the fields of an identifier clears its unused bits (R104). -/
theorem compose_fields (id : Word) :
    compose (id.toNat / 2 ^ 26 % 2 ^ 3) (id.toNat / 2 ^ 24 % 2 ^ 1) (id.toNat / 2 ^ 16 % 2 ^ 8)
      (id.toNat / 2 ^ 8 % 2 ^ 8) (id.toNat % 2 ^ 8) = id &&& 0x1DFFFFFF := by
  have hsource : id.toNat % 2 ^ 8 = id.toNat &&& (2 ^ 8 - 1) := (Nat.and_two_pow_sub_one_eq_mod _ 8).symm
  rw [compose, shiftLeft_slice, shiftLeft_slice, shiftLeft_slice, shiftLeft_slice, hsource, ← Nat.and_or_distrib_left,
    ← Nat.and_or_distrib_left, ← Nat.and_or_distrib_left, ← Nat.and_or_distrib_left, BitVec.ofNat_and,
    BitVec.ofNat_toNat, BitVec.setWidth_eq]
  rfl

end Sys2Proof.Machine

namespace Sys2Proof.Proofs.Decompose
open Sys2Proof.Machine

/-- Settles O24: DECOMP's word is the one the encoder writes, and its state is the fields as numbers. -/
theorem decompWritesTheHeaderOfId : Obligations.DecompWritesTheHeaderOfId :=
  ⟨decode_encode .decomp, exec_decomp⟩

/-- Settles O25: the mask is all ones over each of the five fields, and PGN is two of them. -/
theorem decompIgnoresTheUnusedIdBits : Obligations.DecompIgnoresTheUnusedIdBits := by
  intro s id' h
  have hpriority : idPriority id' = idPriority s.id := extract_eq_of_and_eq h (by decide)
  have hpage : idDataPage id' = idDataPage s.id := extract_eq_of_and_eq h (by decide)
  have hformat : idPduFormat id' = idPduFormat s.id := extract_eq_of_and_eq h (by decide)
  have hspecific : idPduSpecific id' = idPduSpecific s.id := extract_eq_of_and_eq h (by decide)
  have hsource : idSourceAddress id' = idSourceAddress s.id := extract_eq_of_and_eq h (by decide)
  refine ⟨_, rfl, rfl, ?_⟩
  change execDecomp { s with id := id' } = _
  rw [execDecomp, idPgn, hpriority, hpage, hformat, hspecific, hsource]
  rfl

/-- Settles O26: the fields of a composed identifier are its digits, and each field of ID put back in its place is ID
masked to that field. -/
theorem headerRoundTrip : Obligations.HeaderRoundTrip := by
  constructor
  · intro s p dp pf ps sa hp hdp hpf hps hsa hid
    have hn := compose_toNat hp hdp hpf hps hsa
    rw [← hid] at hn
    refine ⟨_, exec_decomp s, ?_⟩
    simp only [BitVec.toNat_ofNat]
    omega
  · intro s
    refine ⟨_, exec_decomp s, ?_⟩
    rw [← compose_fields]
    simp only [BitVec.toNat_ofNat]
    congr 1 <;> omega

end Sys2Proof.Proofs.Decompose
end

section
/-! The loops of the SPN extractor (41_spn_extract.md) in closed form: EXTBYTE's and EXTBIT's raw values are slices of
the payload D (R122, R124). -/

namespace Sys2Proof.Machine

/-! ## Slices of the payload -/

/-- Byte `i` of the payload is the slice of D at `8 * i` (R25). -/
theorem byteOf_eq_extract (lo hi : Word) (i : Nat) : byteOf lo hi i = (hi ++ lo).extractLsb' (8 * i) 8 := by
  unfold byteOf
  split
  · rw [BitVec.extractLsb'_append_eq_of_add_le (by omega)]
  · rw [BitVec.extractLsb'_append_eq_of_le (by omega), show 8 * i - 32 = 8 * (i - 4) by omega]

theorem byteOf_toNat (lo hi : Word) (i : Nat) : (byteOf lo hi i).toNat = (hi ++ lo).toNat / 2 ^ (8 * i) % 2 ^ 8 := by
  rw [byteOf_eq_extract, extract_toNat]

/-- A slice of `a + b` bits is the slice of its low `a` bits with that of its high `b` bits above it. -/
theorem slice_add (n p a b : Nat) :
    n / 2 ^ p % 2 ^ (a + b) = n / 2 ^ p % 2 ^ a + n / 2 ^ (p + a) % 2 ^ b * 2 ^ a := by
  rw [pow_add, Nat.mod_mul, Nat.div_div_eq_div_mul, ← pow_add, Nat.mul_comm (2 ^ a)]

/-- The step both loops take: the next `b` bits of `n` go above the `a` bits gathered so far. -/
theorem or_shiftLeft_slice {raw chunk : DWord} {n p a b : Nat} (hraw : raw.toNat = n / 2 ^ p % 2 ^ a)
    (hchunk : chunk.toNat = n / 2 ^ (p + a) % 2 ^ b) (hab : a + b ≤ 64) :
    (raw ||| (chunk <<< a)).toNat = n / 2 ^ p % 2 ^ (a + b) := by
  have hlow : raw.toNat < 2 ^ a := hraw ▸ Nat.mod_lt _ (Nat.two_pow_pos a)
  have hfits : n / 2 ^ p % 2 ^ (a + b) < 2 ^ 64 :=
    (Nat.mod_lt _ (Nat.two_pow_pos _)).trans_le (Nat.pow_le_pow_right (by decide) hab)
  rw [slice_add, ← hraw, ← hchunk] at hfits ⊢
  rw [BitVec.toNat_or, BitVec.toNat_shiftLeft, Nat.mod_eq_of_lt (by rw [Nat.shiftLeft_eq]; omega),
    or_shiftLeft_eq_add hlow]

/-! ## EXTBYTE's loop -/

theorem gatherBytes_toNat (lo hi : Word) (first : Nat) {k : Nat} (hk : k ≤ 8) :
    (gatherBytes lo hi first k).toNat = (hi ++ lo).toNat / 2 ^ (8 * first) % 2 ^ (8 * k) := by
  induction k with
  | zero => simp [gatherBytes, Nat.mod_one]
  | succ k ih =>
    have hbyte : ((byteOf lo hi (first + k)).zeroExtend 64).toNat =
        (hi ++ lo).toNat / 2 ^ (8 * first + 8 * k) % 2 ^ 8 := by
      rw [BitVec.zeroExtend, BitVec.toNat_setWidth_of_le (by decide), byteOf_toNat, Nat.mul_add]
    exact or_shiftLeft_slice (ih (by omega)) hbyte (by omega)

/-- The bytes of the payload, each at its little-endian place, add up to the slice they fill (R122). -/
theorem sum_payloadByte (s : State) (first k : Nat) :
    ∑ j ∈ Finset.range k, (payloadByte s (first + j)).toNat * 256 ^ j =
      (payload s).toNat / 2 ^ (8 * first) % 2 ^ (8 * k) := by
  induction k with
  | zero => simp [Nat.mod_one]
  | succ k ih =>
    have hbyte : (payloadByte s (first + k)).toNat = (payload s).toNat / 2 ^ (8 * first + 8 * k) % 2 ^ 8 := by
      rw [← Nat.mul_add]
      exact byteOf_toNat s.dataLo s.dataHi (first + k)
    have hweight : 256 ^ k = 2 ^ (8 * k) := (pow_mul 2 8 k).symm
    rw [Finset.sum_range_succ, ih, hbyte, hweight, Nat.mul_succ, slice_add]

/-! ## EXTBIT's loop -/

/-- The chunk a pass takes from a byte is the slice of D at its place (R67, R123). -/
theorem ofNat_bitChunk_toNat (lo hi : Word) (i : Nat) {bitOff take : Nat} (h : bitOff + take ≤ 8) :
    (BitVec.ofNat 64 (bitChunk (byteOf lo hi i) bitOff take)).toNat =
      (hi ++ lo).toNat / 2 ^ (8 * i + bitOff) % 2 ^ take := by
  have hcut : (2 : Nat) ^ 8 = 2 ^ bitOff * 2 ^ (8 - bitOff) := by rw [← pow_add, Nat.add_sub_cancel' (by omega)]
  have hfits : bitChunk (byteOf lo hi i) bitOff take < 2 ^ 64 :=
    Nat.and_le_left.trans_lt ((Nat.shiftRight_le _ _).trans_lt ((byteOf lo hi i).isLt.trans (by decide)))
  rw [BitVec.toNat_ofNat, Nat.mod_eq_of_lt hfits, bitChunk, Nat.and_two_pow_sub_one_eq_mod,
    Nat.shiftRight_eq_div_pow, byteOf_toNat, hcut, Nat.mod_mul_right_div_self, Nat.div_div_eq_div_mul, ← pow_add,
    Nat.mod_mod_of_dvd _ (pow_dvd_pow 2 (by omega))]

theorem gatherBits_of_remaining_zero (lo hi : Word) (fuel byteIdx bitOff filled : Nat) (raw : DWord) :
    gatherBits lo hi fuel byteIdx bitOff filled 0 raw = (raw, 0) := by
  cases fuel <;> simp [gatherBits]

/-- EXTBIT's loop, entered with the `filled` bits of D from `p` on and standing at the bit after them, leaves the bits
from `p` on that were wanted and are there (R123, R124). -/
theorem gatherBits_toNat {lo hi : Word} {p fuel byteIdx bitOff filled remaining : Nat} {raw : DWord}
    (hfuel : 8 ≤ byteIdx + fuel) (hoff : bitOff < 8) (hplace : p + filled = 8 * byteIdx + bitOff)
    (hraw : raw.toNat = (hi ++ lo).toNat / 2 ^ p % 2 ^ filled) :
    (gatherBits lo hi fuel byteIdx bitOff filled remaining raw).1.toNat =
      (hi ++ lo).toNat / 2 ^ p % 2 ^ (filled + min remaining (64 - (p + filled))) := by
  induction fuel generalizing byteIdx bitOff filled remaining raw with
  | zero => rw [gatherBits, hraw, show filled + min remaining (64 - (p + filled)) = filled by omega]
  | succ fuel ih =>
    simp only [gatherBits]
    split
    · have htake : bitOff + min (8 - bitOff) remaining ≤ 8 := by omega
      have hraw' := or_shiftLeft_slice hraw (hplace ▸ ofNat_bitChunk_toNat lo hi byteIdx htake) (by omega)
      rcases Nat.le_total remaining (8 - bitOff) with hlast | hmore
      · rw [Nat.min_eq_right hlast] at hraw' ⊢
        rw [Nat.sub_self, gatherBits_of_remaining_zero, hraw']
        congr 2
        omega
      · rw [Nat.min_eq_left hmore] at hraw' ⊢
        rw [ih (by omega) (by omega) (by omega) hraw']
        congr 2
        omega
    · rw [hraw, show filled + min remaining (64 - (p + filled)) = filled by omega]

theorem bitField_toNat (lo hi : Word) (start length : Nat) :
    (bitField lo hi start length).1.toNat =
      (hi ++ lo).toNat / 2 ^ (start - 1) % 2 ^ min length (64 - (start - 1)) := by
  have hbits := gatherBits_toNat (lo := lo) (hi := hi) (p := start - 1) (fuel := 8) (byteIdx := (start - 1) / 8)
    (bitOff := (start - 1) % 8) (filled := 0) (remaining := length) (raw := 0) (by omega) (by omega) (by omega)
    (by simp [Nat.mod_one])
  rwa [Nat.zero_add] at hbits

/-! ## What an extract depends on -/

theorem scaledFrom_scaledPattern (i : Instr) (raw : DWord) (s : State) :
    ScaledFrom s raw (scaledPattern i raw s) := by
  unfold ScaledFrom
  rcases scaledPattern_cases i raw s with hscale | ⟨hscale, hnan⟩ <;> rw [hscale]
  exact hnan

/-- The two states hold the same operands of an extract (R132). -/
structure SameOperands (s₁ s₂ : State) : Prop where
  dataLo : s₁.dataLo = s₂.dataLo
  dataHi : s₁.dataHi = s₂.dataHi
  desc : s₁.desc = s₂.desc
  resLo : s₁.resLo = s₂.resLo
  resHi : s₁.resHi = s₂.resHi
  offLo : s₁.offLo = s₂.offLo
  offHi : s₁.offHi = s₂.offHi

theorem scaledPattern_congr {s₁ s₂ : State} (h : SameOperands s₁ s₂) (i : Instr) (raw : DWord) :
    scaledPattern i raw s₁ = scaledPattern i raw s₂ := by
  obtain ⟨hlo, hhi, hdesc, hresLo, hresHi, hoffLo, hoffHi⟩ := h
  simp only [scaledPattern, resolution, offset, hlo, hhi, hdesc, hresLo, hresHi, hoffLo, hoffHi]

/-- From the same operands an extract fails with the same code, or gathers the same raw value and the same TRUNC. -/
theorem exec_extract_congr {s₁ s₂ : State} (h : SameOperands s₁ s₂) {i : Instr} (hi : i = .extbyte ∨ i = .extbit) :
    (∃ c : ResultCode, c ≠ .ok ∧ exec i s₁ = .next (raise c s₁) ∧ exec i s₂ = .next (raise c s₂)) ∨
    (∃ raw truncated, exec i s₁ = .next (finishOk (writeExtract i raw truncated s₁)) ∧
      exec i s₂ = .next (finishOk (writeExtract i raw truncated s₂))) := by
  have hstart : descStart s₁ = descStart s₂ := by rw [descStart, descStart, h.desc]
  have hlength : descLength s₁ = descLength s₂ := by rw [descLength, descLength, h.desc]
  rcases hi with rfl | rfl
  · rcases execExtbyte_cases s₁ with ⟨hinvalid, hs⟩ | ⟨h₀, h₁, hshort, hs⟩ | ⟨h₀, h₁, hfits, hs⟩
    · rw [hstart, hlength] at hinvalid
      exact .inl ⟨_, by decide, hs, exec_extbyte_invalid hinvalid⟩
    · rw [hstart] at h₀ hshort
      rw [hlength] at h₁ hshort
      exact .inl ⟨_, by decide, hs, exec_extbyte_short h₀ h₁ hshort⟩
    · rw [hstart, hlength, h.dataLo, h.dataHi] at hs
      rw [hstart] at h₀ hfits
      rw [hlength] at h₁ hfits
      exact .inr ⟨_, _, hs, exec_extbyte_ok h₀ h₁ hfits⟩
  · rcases execExtbit_cases s₁ with ⟨hinvalid, hs⟩ | ⟨h₀, h₁, hs⟩
    · rw [hstart, hlength] at hinvalid
      exact .inl ⟨_, by decide, hs, exec_extbit_invalid hinvalid⟩
    · rw [hstart, hlength, h.dataLo, h.dataHi] at hs
      rw [hstart] at h₀
      rw [hlength] at h₁
      exact .inr ⟨_, _, hs, exec_extbit_ok h₀ h₁⟩

/-- An extract writes none of its operands, so a second one finds what the first one found (R132). -/
theorem exec_extract_again {i : Instr} (hi : i = .extbyte ∨ i = .extbit) {s t : State} (h : exec i s = .next t) :
    exec i t = .next t := by
  have hsame : SameOperands s t := by
    cases commandEffect_of_exec h with
    | failed _ => exact ⟨rfl, rfl, rfl, rfl, rfl, rfl, rfl⟩
    | extracted raw _ _ => exact ⟨rfl, rfl, rfl, rfl, rfl, rfl, rfl⟩
    | decomposed => simp at hi
    | pushed b _ => simp at hi
    | popped _ => simp at hi
    | reset => simp at hi
  rcases exec_extract_congr hsame hi with ⟨c, -, hs, ht⟩ | ⟨raw, truncated, hs, ht⟩
  · obtain rfl : raise c s = t := Host.Outcome.next.inj (hs.symm.trans h)
    exact ht
  · obtain rfl : finishOk (writeExtract i raw truncated s) = t := Host.Outcome.next.inj (hs.symm.trans h)
    rw [ht, writeExtract, ← scaledPattern_congr hsame]
    rfl

end Sys2Proof.Machine

namespace Sys2Proof.Proofs.Extract
open Sys2Proof.Machine

/-- Settles O27: the first branch of either command. -/
theorem invalidDescriptorsAreRejectedFirst : Obligations.InvalidDescriptorsAreRejectedFirst :=
  fun _ h => ⟨exec_extbyte_invalid h, exec_extbit_invalid h⟩

/-- Settles O28: the loop's closed form, and the slice as the sum of its bytes. -/
theorem extbyteGathersBytesLittleEndian : Obligations.ExtbyteGathersBytesLittleEndian := by
  refine ⟨decode_encode .extbyte, fun _ h => exec_extbyte_invalid h,
    fun s h₀ h₁ => ⟨exec_extbyte_short h₀ h₁, fun hfits => ⟨_, exec_extbyte_ok h₀ h₁ hfits, ?_⟩⟩⟩
  have hraw := gatherBytes_toNat s.dataLo s.dataHi (descStart s - 1) (k := descLength s) (by omega)
  obtain ⟨hrawValue, hscaledValue⟩ := writeExtract_values .extbyte
    (gatherBytes s.dataLo s.dataHi (descStart s - 1) (descLength s)) false s
  rw [hrawValue, hscaledValue, sum_payloadByte]
  exact ⟨hraw, hraw, scaledFrom_scaledPattern _ _ s, rfl⟩

/-- Settles O29: the loop's closed form; from bit 64 on there are no bits. -/
theorem extbitGathersTheBitsThereAre : Obligations.ExtbitGathersTheBitsThereAre := by
  refine ⟨decode_encode .extbit, fun s h₀ h₁ => ⟨_, exec_extbit_ok h₀ h₁, ?_⟩⟩
  obtain ⟨hrawValue, hscaledValue⟩ := writeExtract_values .extbit
    (bitField s.dataLo s.dataHi (descStart s) (descLength s)).1
    (truncatedFlag (bitField s.dataLo s.dataHi (descStart s) (descLength s)).2) s
  have htrunc : truncatedFlag (bitField s.dataLo s.dataHi (descStart s) (descLength s)).2 =
      decide (64 - (descStart s - 1) < descLength s) := by
    rw [truncatedFlag, bitField_remaining]
    exact decide_eq_decide.mpr (by omega)
  rw [hrawValue, hscaledValue, bitField_toNat, htrunc]
  refine ⟨?_, scaledFrom_scaledPattern _ _ s, rfl⟩
  split
  · rfl
  · rw [show min (descLength s) (64 - (descStart s - 1)) = 0 by omega, pow_zero, Nat.mod_one]

/-- Settles O30: both raw values are the same slice of the payload. -/
theorem byteAlignedBitFieldsAreByteFields : Obligations.ByteAlignedBitFieldsAreByteFields := by
  intro s t first count hfits hcount hlo hhi hstart hlength hstart' hlength'
  refine ⟨_, _, exec_extbyte_ok (by omega) (by omega) (by omega), exec_extbit_ok (by omega) (by omega), ?_, ?_⟩
  · rw [(writeExtract_values ..).1, (writeExtract_values ..).1]
    apply BitVec.eq_of_toNat_eq
    rw [gatherBytes_toNat _ _ _ (by omega), bitField_toNat, hlo, hhi, hstart, hlength, hstart', hlength',
      Nat.add_sub_cancel, Nat.add_sub_cancel, Nat.min_eq_left (by omega)]
  · change truncatedFlag _ = false
    rw [truncatedFlag, bitField_remaining, hstart', hlength']
    exact decide_eq_false (by omega)

/-- Settles O31: the same operands give the same branch and the same result, and the operands stay. -/
theorem extractsArePureInTheirOperands : Obligations.ExtractsArePureInTheirOperands := by
  intro s₁ s₂ i hi hlo hhi hdesc hresLo hresHi hoffLo hoffHi
  have hsame : SameOperands s₁ s₂ := ⟨hlo, hhi, hdesc, hresLo, hresHi, hoffLo, hoffHi⟩
  rcases exec_extract_congr hsame hi with ⟨c, hc, h₁, h₂⟩ | ⟨raw, truncated, h₁, h₂⟩ <;>
    refine ⟨_, _, h₁, h₂, rfl, fun hok => ?_, fun hfail => ?_, exec_extract_again hi h₁⟩
  · exact absurd ((resultCode_code_eq_zero_iff c).mp hok) hc
  · exact ⟨rfl, rfl⟩
  · obtain ⟨hraw₁, hscaled₁⟩ := writeExtract_values i raw truncated s₁
    obtain ⟨hraw₂, hscaled₂⟩ := writeExtract_values i raw truncated s₂
    rw [hraw₁, hraw₂, hscaled₁, hscaled₂]
    exact ⟨rfl, rfl, scaledPattern_congr hsame i raw⟩
  · exact absurd rfl hfail

/-- Settles O32: D has 64 bits, and 255 is past them. -/
theorem clampedDescriptorsGiveTheSameOutcome : Obligations.ClampedDescriptorsGiveTheSameOutcome := by
  intro lo hi start length hstart hlength
  unfold clampField
  refine ⟨by omega, ?_, ?_⟩
  · apply BitVec.eq_of_toNat_eq
    rw [bitField_toNat, bitField_toNat]
    rcases Nat.lt_or_ge start 255 with hs | hs
    · rw [Nat.min_eq_left hs.le, show min (min length 255) (64 - (start - 1)) = min length (64 - (start - 1)) by omega]
    · rw [show min length (64 - (start - 1)) = 0 by omega,
        show min (min length 255) (64 - (min start 255 - 1)) = 0 by omega, pow_zero, Nat.mod_one, Nat.mod_one]
  · rw [truncatedFlag, truncatedFlag, bitField_remaining, bitField_remaining]
    exact decide_eq_decide.mpr (by omega)

end Sys2Proof.Proofs.Extract
end

section
/-! The binary64 arithmetic of scaling (R125 to R128): patterns and the values they stand for, values that rounding
leaves as they are, and the conversion, the product and the sum by the kinds of their operands. -/

namespace Sys2Proof.Machine

/-! ## Patterns by their fields -/

/-- A pattern is its sign over its exponent and fraction fields. -/
theorem fpPattern_of_fields (p : DWord) :
    fpPattern (signBit p) (exponentField p * 2 ^ 52 + fractionField p) = p := by
  have hp := p.isLt
  apply BitVec.eq_of_toNat_eq
  rw [exponentField_eq, fractionField_eq, fpPattern_toNat _ _ (by omega), signBit_eq]
  simp only [decide_eq_true_eq]
  split <;> omega

theorem isNan_iff {p : DWord} : isNan p = true ↔ fpValue p = .nan := by
  unfold isNan fpValue
  split
  · split <;> simp [*]
  · split <;> simp [*]

/-- There is one infinity of each sign. -/
theorem eq_of_fpValue_infinity {p : DWord} {g : Bool} (h : fpValue p = .infinity g) :
    p = fpPattern g infinityBits := by
  unfold fpValue at h
  split_ifs at h with hexponent hfraction
  cases h
  have hp := fpPattern_of_fields p
  rw [hexponent, hfraction] at hp
  exact hp.symm

/-- The significand and the count of bits dropped that a finite pattern's magnitude bits are made of. -/
theorem exists_significand_of_finite {p : DWord} {g : Bool} {v : Nat} (h : fpValue p = .finite g v) :
    ∃ m t, v = m * 2 ^ t ∧ m < 2 ^ 53 ∧ (t = 0 ∨ 2 ^ 52 ≤ m) ∧ 2 ^ 52 * t + m ≤ infinityBits ∧
      p = fpPattern g (2 ^ 52 * t + m) := by
  have hfraction := fractionField_lt p
  have hexponent : exponentField p < 2 ^ 11 := (p.extractLsb' 52 11).isLt
  have hp := (fpPattern_of_fields p).symm
  unfold infinityBits
  unfold fpValue at h
  split_ifs at h with hinf hfrac hsub <;> cases h
  · refine ⟨fractionField p, 0, by simp, by omega, .inl rfl, by omega, ?_⟩
    rwa [hsub, Nat.zero_mul] at hp
  · obtain ⟨t, ht⟩ : ∃ t, exponentField p = t + 1 := ⟨exponentField p - 1, by omega⟩
    refine ⟨2 ^ 52 + fractionField p, t, by rw [ht, Nat.add_sub_cancel], by omega, .inr (by omega), by omega, ?_⟩
    rwa [ht, show (t + 1) * 2 ^ 52 + fractionField p = 2 ^ 52 * t + (2 ^ 52 + fractionField p) by omega] at hp

/-! ## Values that rounding leaves as they are -/

theorem nearestEven_mul {d : Nat} (hd : 0 < d) (m : Nat) : nearestEven (m * d) d = m := by
  rw [nearestEven, Nat.mul_mod_left, Nat.mul_div_cancel m hd, if_neg (by omega)]

theorem dropCount_significand {m t : Nat} (hm : m < 2 ^ 53) (h : t = 0 ∨ 2 ^ 52 ≤ m) :
    dropCount (m * 2 ^ t) = t := by
  cases t with
  | zero =>
    by_contra hdrop
    have hle := two_pow_dropCount_le hdrop
    have hpow : 2 ^ 53 ≤ 2 ^ (52 + dropCount (m * 2 ^ 0)) := Nat.pow_le_pow_right (by decide) (by omega)
    omega
  | succ k =>
    have hupper : m * 2 ^ (k + 1) < 2 ^ (54 + k) := by
      rw [show 54 + k = 53 + (k + 1) by omega, pow_add 2 53]
      exact Nat.mul_lt_mul_of_pos_right hm (Nat.two_pow_pos _)
    have hlower : 2 ^ (53 + k) ≤ m * 2 ^ (k + 1) := by
      rw [show 53 + k = 52 + (k + 1) by omega, pow_add 2 52]
      exact Nat.mul_le_mul_right _ (by omega)
    exact Nat.le_antisymm (dropCount_le_of_lt hupper) (le_dropCount_of_le hlower)

/-- Rounding a value whose significand has 53 bits drops none of them. -/
theorem roundedBits_significand {m t : Nat} (hm : m < 2 ^ 53) (h : t = 0 ∨ 2 ^ 52 ≤ m)
    (hfits : 2 ^ 52 * t + m ≤ infinityBits) : roundedBits (m * 2 ^ t) 1 = 2 ^ 52 * t + m := by
  simp only [roundedBits, Nat.div_one, dropCount_significand hm h, Nat.one_mul, nearestEven_mul (Nat.two_pow_pos t)]
  exact Nat.min_eq_left hfits

/-- Rounding the value of a finite pattern gives the pattern back. -/
theorem fpPattern_roundedBits_of_finite {p : DWord} {g : Bool} {v : Nat} (h : fpValue p = .finite g v) :
    fpPattern g (roundedBits v 1) = p := by
  obtain ⟨m, t, rfl, hm, ht, hfits, hp⟩ := exists_significand_of_finite h
  rw [roundedBits_significand hm ht hfits, ← hp]

theorem roundedBits_zero (d : Nat) : roundedBits 0 d = 0 := by
  simp [roundedBits, dropCount, nearestEven]

/-- A significand of at most 53 bits can be widened until it has 53 or its exponent is used up. -/
theorem exists_normal_significand {m e : Nat} (hm : m < 2 ^ 53) :
    ∃ m' t, m * 2 ^ e = m' * 2 ^ t ∧ m' < 2 ^ 53 ∧ (t = 0 ∨ 2 ^ 52 ≤ m') := by
  induction e generalizing m with
  | zero => exact ⟨m, 0, rfl, hm, .inl rfl⟩
  | succ e ih =>
    by_cases h : 2 ^ 52 ≤ m
    · exact ⟨m, e + 1, rfl, hm, .inr h⟩
    · obtain ⟨m', t, heq, hm', ht⟩ := ih (m := m * 2) (by omega)
      exact ⟨m', t, by rw [← heq, pow_succ']; ring, hm', ht⟩

/-- A value below the overflow threshold with at most 53 significant bits is one of the finite values. -/
theorem fpValue_roundedBits_exact {m e : Nat} (hm : m < 2 ^ 53) (h : m * 2 ^ e < overflowUnits) (g : Bool) :
    fpValue (fpPattern g (roundedBits (m * 2 ^ e) 1)) = .finite g (m * 2 ^ e) := by
  obtain ⟨m', t, heq, hm', ht⟩ := exists_normal_significand (e := e) hm
  rw [heq] at h ⊢
  have hbits := significandBits_lt (n := m' * 2 ^ t) (d := 1) (k := 2044) (by rw [Nat.one_mul]; exact h)
  rw [Nat.div_one, dropCount_significand hm' ht, Nat.one_mul, nearestEven_mul (Nat.two_pow_pos t)] at hbits
  rw [roundedBits_significand hm' ht hbits.le, fpValue_fpPattern g hbits, magnitudeUnits_significand hm'.le ht]

/-! ## The conversion -/

theorem two_pow_mul_lt {n a k c : Nat} (hn : n < 2 ^ a) (h : a + k ≤ c) : 2 ^ k * n < 2 ^ c :=
  calc 2 ^ k * n < 2 ^ k * 2 ^ a := Nat.mul_lt_mul_of_pos_left hn (Nat.two_pow_pos k)
    _ = 2 ^ (a + k) := by rw [pow_add, Nat.mul_comm]
    _ ≤ 2 ^ c := Nat.pow_le_pow_right (by decide) h

theorem mul_two_pow_le {n c j k : Nat} (h : c * 2 ^ j ≤ n) : c * 2 ^ (j + k) ≤ 2 ^ k * n := by
  rw [pow_add, ← Nat.mul_assoc, Nat.mul_comm (2 ^ k)]
  exact Nat.mul_le_mul_right _ h

theorem unitsPerOne_mul_lt (n : DWord) {c : Nat} (h : 64 + 1074 ≤ c) : unitsPerOne * n.toNat < 2 ^ c := by
  unfold unitsPerOne
  exact two_pow_mul_lt n.isLt h

/-- No u64 reaches the overflow threshold (R126). -/
theorem cvtU64_units_lt (n : DWord) : unitsPerOne * n.toNat < overflowUnits := by
  unfold overflowUnits
  exact (unitsPerOne_mul_lt n (by decide)).trans_le (Nat.le_mul_of_pos_left _ (by decide))

theorem cvtU64_nearest (n : DWord) :
    ∃ u, fpValue (cvtU64 n) = .finite false u ∧ NearestEvenUnits (unitsPerOne * n.toNat) 1 (cvtU64 n) u :=
  (roundsTo_roundedBits _ Nat.one_pos false).1 (by rw [Nat.one_mul]; exact cvtU64_units_lt n)

theorem cvtU64_exact {n : DWord} {m k : Nat} (hm : m < 2 ^ 53) (h : n.toNat = m * 2 ^ k) :
    fpValue (cvtU64 n) = .finite false (unitsPerOne * n.toNat) := by
  have hunits : unitsPerOne * n.toNat = m * 2 ^ (k + 1074) := by
    rw [h, unitsPerOne, pow_add, Nat.mul_comm, Nat.mul_assoc]
  have hfinite := cvtU64_units_lt n
  rw [cvtU64]
  rw [hunits] at hfinite ⊢
  exact fpValue_roundedBits_exact hm hfinite false

/-- From half way between the largest 53-bit significand and 2^53 on, rounding carries into the exponent field. -/
theorem roundedBits_carry {n k : Nat} (hlower : (2 ^ 54 - 1) * 2 ^ k ≤ n) (hupper : n < 2 ^ (54 + k))
    (hfits : (k + 3) * 2 ^ 52 ≤ infinityBits) : roundedBits n 1 = (k + 3) * 2 ^ 52 := by
  have hle := le_significandBits (n := n) Nat.one_pos (by rwa [Nat.one_mul])
  have hdrop := dropCount_le_of_lt hupper
  have hm := nearestEven_le n 1
  rw [Nat.div_one] at hle hm
  simp only [roundedBits, Nat.div_one]
  omega

/-- 2^64 - 2^10 is half way between the largest 53-bit value below 2^64 and 2^64 itself (R126). -/
theorem cvtU64_large {n : DWord} (h : 2 ^ 64 - 2 ^ 10 ≤ n.toNat) : cvtU64 n = 0x43F0000000000000 := by
  have hlower : (2 ^ 54 - 1) * 2 ^ (10 + 1074) ≤ unitsPerOne * n.toNat := by
    unfold unitsPerOne
    exact mul_two_pow_le h
  rw [cvtU64, roundedBits_carry hlower (unitsPerOne_mul_lt n (by decide)) (by decide)]
  decide

/-- A raw value above 0 is not converted to a zero. -/
theorem cvtU64_pos {n : DWord} (h : n ≠ 0) : ∃ u, u ≠ 0 ∧ fpValue (cvtU64 n) = .finite false u := by
  obtain ⟨u, hu, hnearest⟩ := cvtU64_nearest n
  refine ⟨u, ?_, hu⟩
  rintro rfl
  have hpos : 0 < unitsPerOne * n.toNat :=
    Nat.mul_pos unitsPerOne_pos (Nat.pos_of_ne_zero fun h0 => h (BitVec.eq_of_toNat_eq h0))
  obtain ⟨hle, -⟩ := hnearest 1 false 1 (by decide)
  simp only [unitsGap] at hle
  omega

/-! ## The product -/

theorem fmul_nan_right (a : DWord) {b : DWord} (hb : fpValue b = .nan) : fmul a b = none := by
  unfold fmul
  rw [hb]
  cases fpValue a <;> rfl

theorem fmul_finite {a b : DWord} {x y : Bool} {m n : Nat} (ha : fpValue a = .finite x m)
    (hb : fpValue b = .finite y n) : fmul a b = some (fpPattern (x ^^ y) (roundedBits (m * n) unitsPerOne)) := by
  simp only [fmul, ha, hb]

theorem fmul_finite_infinity {a b : DWord} {x y : Bool} {m : Nat} (ha : fpValue a = .finite x m)
    (hb : fpValue b = .infinity y) :
    fmul a b = if m = 0 then none else some (fpPattern (x ^^ y) infinityBits) := by
  simp only [fmul, ha, hb]

theorem cvtU64_zero : cvtU64 0 = 0 := by
  rw [cvtU64, BitVec.ofNat_eq_ofNat, BitVec.toNat_zero, Nat.mul_zero, roundedBits_zero]
  rfl

theorem fpValue_cvtU64_zero : fpValue (cvtU64 0) = .finite false 0 := by
  rw [cvtU64_zero]
  decide

theorem fmul_cvtU64_infinity {raw res : DWord} {g : Bool} (hraw : raw ≠ 0) (hres : fpValue res = .infinity g) :
    fmul (cvtU64 raw) res = some res := by
  obtain ⟨u, hpos, hu⟩ := cvtU64_pos hraw
  rw [fmul_finite_infinity hu hres, if_neg hpos, Bool.false_xor, ← eq_of_fpValue_infinity hres]

/-! ## The sum -/

theorem fadd_nan_right (a : DWord) {b : DWord} (hb : fpValue b = .nan) : fadd a b = none := by
  unfold fadd
  rw [hb]
  cases fpValue a <;> rfl

theorem fadd_infinities {a b : DWord} {x y : Bool} (ha : fpValue a = .infinity x) (hb : fpValue b = .infinity y) :
    fadd a b = if x = y then some a else none := by
  rw [eq_of_fpValue_infinity ha]
  simp only [fadd, fpValue_infinityBits, hb]

theorem fadd_infinity_finite {a b : DWord} {x y : Bool} {n : Nat} (ha : fpValue a = .infinity x)
    (hb : fpValue b = .finite y n) : fadd a b = some a := by
  rw [eq_of_fpValue_infinity ha]
  simp only [fadd, fpValue_infinityBits, hb]

theorem fadd_finite_infinity {a b : DWord} {x y : Bool} {m : Nat} (ha : fpValue a = .finite x m)
    (hb : fpValue b = .infinity y) : fadd a b = some b := by
  rw [eq_of_fpValue_infinity hb]
  simp only [fadd, ha, fpValue_infinityBits]

theorem fadd_finite {a b : DWord} {x y : Bool} {m n : Nat} (ha : fpValue a = .finite x m)
    (hb : fpValue b = .finite y n) :
    fadd a b = some (fpPattern (sumSign x y (signedUnits x m + signedUnits y n))
      (roundedBits (signedUnits x m + signedUnits y n).natAbs 1)) := by
  simp only [fadd, ha, hb]

theorem sumSign_of_ne_zero (x y : Bool) {sum : Int} (h : sum ≠ 0) : sumSign x y sum = decide (sum < 0) :=
  if_neg h

/-- A zero of either sign adds nothing to a nonzero value. -/
theorem fadd_zero_left {z p : DWord} {x y : Bool} {n : Nat} (hz : fpValue z = .finite x 0)
    (hp : fpValue p = .finite y n) (hn : n ≠ 0) : fadd z p = some p := by
  have hsum : signedUnits x 0 + signedUnits y n = signedUnits y n := by cases x <;> simp [signedUnits]
  have hunits : (signedUnits y n).natAbs = n := by cases y <;> simp [signedUnits]
  have hsign : sumSign x y (signedUnits y n) = y := by
    rw [sumSign_of_ne_zero x y (by omega)]
    cases y with
    | false => exact decide_eq_false (by change ¬ (n : Int) < 0; omega)
    | true => exact decide_eq_true (by change -(n : Int) < 0; omega)
  rw [fadd_finite hz hp, hsum, hunits, hsign, fpPattern_roundedBits_of_finite hp]

/-! ## Scaling -/

theorem scale_of_fmul {raw res p : DWord} (h : fmul (cvtU64 raw) res = some p) (off : DWord) :
    scale raw res off = fadd p off := by
  simp only [scale, h]

theorem scale_of_fmul_nan {raw res : DWord} (h : fmul (cvtU64 raw) res = none) (off : DWord) :
    scale raw res off = none := by
  simp only [scale, h]

theorem scale_nan_offset (raw res : DWord) {off : DWord} (h : fpValue off = .nan) : scale raw res off = none := by
  rcases hproduct : fmul (cvtU64 raw) res with _ | p
  · exact scale_of_fmul_nan hproduct off
  · rw [scale_of_fmul hproduct, fadd_nan_right p h]

theorem signBit_fpPattern_roundedBits (g : Bool) (n d : Nat) : signBit (fpPattern g (roundedBits n d)) = g :=
  (fpPattern_fields g _ ((roundedBits_le n d).trans_lt (by decide))).2.2

/-- The sum of two finite values: the sign of the exact sum where that is not zero, and one rounding (R127). -/
theorem fadd_rounds {a b : DWord} {x y : Bool} {m n : Nat} (ha : fpValue a = .finite x m)
    (hb : fpValue b = .finite y n) :
    ∃ p, fadd a b = some p ∧ RoundsTo (signedUnits x m + signedUnits y n).natAbs 1 (signBit p) p ∧
      (signedUnits x m + signedUnits y n ≠ 0 → signBit p = decide (signedUnits x m + signedUnits y n < 0)) := by
  refine ⟨_, fadd_finite ha hb, ?_⟩
  rw [signBit_fpPattern_roundedBits]
  exact ⟨roundsTo_roundedBits _ Nat.one_pos _, sumSign_of_ne_zero x y⟩

/-- The product of two finite values: the exclusive or of the signs, and one rounding (R127). -/
theorem fmul_rounds {a b : DWord} {x y : Bool} {m n : Nat} (ha : fpValue a = .finite x m)
    (hb : fpValue b = .finite y n) :
    ∃ p, fmul a b = some p ∧ signBit p = (x ^^ y) ∧ RoundsTo (m * n) unitsPerOne (x ^^ y) p :=
  ⟨_, fmul_finite ha hb, signBit_fpPattern_roundedBits _ _ _, roundsTo_roundedBits _ unitsPerOne_pos _⟩

end Sys2Proof.Machine

namespace Sys2Proof.Proofs.Extract
open Sys2Proof.Machine

/-- Settles O33: significands of 53 bits are kept, the last 2^10 values carry into the exponent, and no
u64 overflows. -/
theorem conversionIsNearestEvenAndExactWhenItCanBe : Obligations.ConversionIsNearestEvenAndExactWhenItCanBe :=
  ⟨fun _ _ _ hm h => cvtU64_exact hm h, fun _ h => cvtU64_large h, cvtU64_zero, by decide +kernel, cvtU64_nearest⟩

/-- Settles O34: the exact product is rounded once. -/
theorem productsAreCorrectlyRounded : Obligations.ProductsAreCorrectlyRounded :=
  fun _ _ _ _ _ _ ha hb => fmul_rounds ha hb

/-- Settles O35: the exact sum is rounded once. -/
theorem sumsAreCorrectlyRounded : Obligations.SumsAreCorrectlyRounded := by
  intro a b x y m n ha hb hsum
  obtain ⟨p, hp, hrounds, hsign⟩ := fadd_rounds ha hb
  exact ⟨p, hp, hsign hsum, hrounds⟩

/-- Settles O36: the product and the sum by the kinds of their operands. -/
theorem specialValuesOfScaling : Obligations.SpecialValuesOfScaling := by
  refine ⟨?_, ?_, ?_, ?_, ?_, ?_, ?_, ?_, ?_, by decide +kernel, ?_, ?_⟩
  · rintro raw res off (hres | hoff)
    · exact scale_of_fmul_nan (fmul_nan_right _ (isNan_iff.mp hres)) off
    · exact scale_nan_offset raw res (isNan_iff.mp hoff)
  · intro res off g hres
    exact scale_of_fmul_nan (by rw [fmul_finite_infinity fpValue_cvtU64_zero hres, if_pos rfl]) off
  · intro raw res off product g hproduct hinf hoff
    rw [scale_of_fmul hproduct, fadd_infinities hinf hoff, if_neg (Bool.not_ne_self g).symm]
  · intro raw off y n hraw hoff
    have hpos : fpValue 0x7FF0000000000000 = .infinity false := by decide
    have hneg : fpValue 0xFFF0000000000000 = .infinity true := by decide
    rw [scale_of_fmul (fmul_cvtU64_infinity hraw hpos), scale_of_fmul (fmul_cvtU64_infinity hraw hneg)]
    exact ⟨fadd_infinity_finite hpos hoff, fadd_infinity_finite hneg hoff⟩
  · intro raw res g hraw hres
    have hproduct := fmul_cvtU64_infinity hraw hres
    exact ⟨hproduct, by rw [scale_of_fmul hproduct, fadd_infinities hres hres, if_pos rfl]⟩
  · exact fun p off g y n hp hoff => fadd_infinity_finite hp hoff
  · intro p off g hp hoff
    rw [fadd_infinities hp hoff, if_pos rfl]
  · exact fun p off x g m hp hoff => fadd_finite_infinity hp hoff
  · intro res x m hres
    rw [fmul_finite fpValue_cvtU64_zero hres, Nat.zero_mul, roundedBits_zero]
    cases x <;> rfl
  · intro off y n hoff hn
    exact ⟨fadd_zero_left (x := false) (by decide) hoff hn, fadd_zero_left (x := true) (by decide) hoff hn⟩
  · intro p off x y m n hp hoff hne hsum
    have hsign : sumSign x y 0 = false := by
      rw [sumSign, if_pos rfl, Bool.eq_not.mpr hne, Bool.not_and_self]
    rw [fadd_finite hp hoff, hsum, hsign, Int.natAbs_zero, roundedBits_zero]
    rfl

/-- Settles O37: the draw with a NaN's own sign and its fraction less 1 gives that NaN. -/
theorem freeNanPatternsAreExactlyTheNans : Obligations.FreeNanPatternsAreExactlyTheNans := by
  refine fun p => ⟨fun h => ⟨fpPattern (signBit p) (fractionField p - 1), ?_⟩, ?_⟩
  · have hlt := fractionField_lt p
    have hnan : exponentField p = 2047 ∧ fractionField p ≠ 0 := by simpa [isNan] using h
    obtain ⟨hexponent, hfraction⟩ := hnan
    obtain ⟨-, hdraw, hsign⟩ := fpPattern_fields (signBit p) (fractionField p - 1) (by omega)
    have hshift : (fractionField p - 1) % 2 ^ 52 % (2 ^ 52 - 1) + 1 = fractionField p := by omega
    rw [nanPattern, hdraw, hsign, hshift, infinityBits, ← hexponent, fpPattern_of_fields]
  · rintro ⟨draw, rfl⟩
    exact isNan_nanPattern draw

/-- Settles O50: the conversion, the product and the sum, each rounded once. -/
theorem scalingIsTheRoundedProductPlusTheOffset : Obligations.ScalingIsTheRoundedProductPlusTheOffset := by
  refine ⟨fun _ _ off _ h => scale_of_fmul h off, fun _ _ off h => scale_of_fmul_nan h off, ?_, by decide +kernel⟩
  intro raw res off x y m n hres hoff
  obtain ⟨c, hc, hnearest⟩ := cvtU64_nearest raw
  obtain ⟨p, hproduct, -, hrounds⟩ := fmul_rounds hc hres
  rw [Bool.false_xor] at hrounds
  refine ⟨c, p, hc, hnearest, hproduct, hrounds, fun k hk => ?_⟩
  rw [scale_of_fmul hproduct]
  exact fadd_rounds hk hoff

end Sys2Proof.Proofs.Extract
end

section
/-! The frame assembler (42_frame_assemble.md): PUSH's word, the frame a POP moves into ID and DATA, and the byte
stream over a run: the buffer and the bytes accepted are the frames delivered and the buffer left (R155). -/

namespace Sys2Proof.Machine

/-! ## PUSH's word -/

theorem encode_push (b : Byte) : encode (.push b) = 0x00000004 ||| (b.zeroExtend 32 <<< 8) := by
  have hb : b.toNat <<< 8 < 2 ^ 32 := by
    rw [Nat.shiftLeft_eq]
    omega
  apply BitVec.eq_of_toNat_eq
  rw [encode, commandWord_toNat, BitVec.toNat_or, BitVec.toNat_shiftLeft, BitVec.toNat_setWidth_of_le (by decide),
    Nat.mod_eq_of_lt hb, or_shiftLeft_eq_add (by decide)]
  exact Nat.add_comm _ _

/-! ## The frame a POP delivers -/

theorem bufByte_append {s : State} {f rest : List Byte} (h : s.buf = f ++ rest) {k : Nat} (hk : k < f.length) :
    bufByte s k = f[k]! := by
  rw [bufByte, h, List.getD_append _ _ _ _ hk, List.getD_eq_getElem _ _ hk, getElem!_pos f k hk]

/-- The bytes at the head of the buffer, one by one. -/
theorem map_bufByte_range {s : State} {n : Nat} (h : n ≤ s.buf.length) :
    (List.range n).map (bufByte s) = s.buf.take n := by
  apply List.ext_getElem
  · simpa using h
  · intro i hi _
    have hin : i < n := by simpa using hi
    rw [List.getElem_map, List.getElem_range, List.getElem_take, bufByte, List.getD_eq_getElem]

/-- ID takes the frame's first byte as its most significant (R65). -/
theorem takeFrame_id_byte (s : State) {i : Nat} (h : i < 4) :
    (takeFrame s).id.extractLsb' (8 * i) 8 = bufByte s (3 - i) := by
  change (le32 (bufByte s 3) (bufByte s 2) (bufByte s 1) (bufByte s 0)).extractLsb' (8 * i) 8 = _
  rw [extract_le32 _ _ _ _ i h]
  interval_cases i <;> rfl

theorem payloadByte_takeFrame (s : State) {i : Nat} (h : i < 8) :
    payloadByte (takeFrame s) i = bufByte s (4 + i) := by
  rw [payloadByte, takeFrame_dataLo, takeFrame_dataHi, byteOf_le32 _ _ _ _ _ _ _ _ i h]
  interval_cases i <;> rfl

@[simp] theorem deliveredFrame_length (t : State) : (deliveredFrame t).length = 12 := rfl

@[simp] theorem deliveredFrame_finishOk (s : State) : deliveredFrame (finishOk s) = deliveredFrame s := rfl

/-- What a POP puts into ID and DATA is the head of the buffer, in stream order (R152). -/
theorem deliveredFrame_takeFrame {s : State} (h : 12 ≤ s.buf.length) :
    deliveredFrame (takeFrame s) = s.buf.take 12 := by
  have hid : [(takeFrame s).id.extractLsb' 24 8, (takeFrame s).id.extractLsb' 16 8,
      (takeFrame s).id.extractLsb' 8 8, (takeFrame s).id.extractLsb' 0 8] = (List.range 4).map (bufByte s) := by
    rw [takeFrame_id_byte s (i := 3) (by decide), takeFrame_id_byte s (i := 2) (by decide),
      takeFrame_id_byte s (i := 1) (by decide), takeFrame_id_byte s (i := 0) (by decide)]
    rfl
  have hdata : (List.range 8).map (payloadByte (takeFrame s)) = (List.range 8).map (bufByte s ∘ (4 + ·)) :=
    List.map_congr_left fun i hi => payloadByte_takeFrame s (List.mem_range.mp hi)
  rw [deliveredFrame, hid, hdata, ← List.map_map, ← List.map_append, ← List.range_add, map_bufByte_range h]

/-! ## The stream over a step -/

theorem resultCode_code_ne_zero {c : ResultCode} (h : c ≠ .ok) : c.code ≠ 0#4 :=
  mt (resultCode_code_eq_zero_iff c).mp h

theorem commandEffect_of_actor {s t : State} {i : Instr} (h : step s = .next t) (ha : actor s = .command i) :
    ∃ rest, CommandEffect (takeInput rest s) i t := by
  cases stepEffect_of_step h with
  | command rest ha' he =>
    rw [ha, Actor.command.injEq] at ha'
    exact ⟨rest, ha' ▸ he⟩
  | idle ha' | illegal _ ha' | hostWrite _ _ _ ha' | hostRead _ _ ha' | reset _ ha' =>
    exact absurd (ha.symm.trans ha') nofun

theorem acceptedBytes_push {s : State} {b : Byte} (ha : actor s = .command (.push b)) (t : State) :
    acceptedBytes s t = if t.err = 0 then [b] else [] := by
  rw [acceptedBytes, pendingCommand_eq_some_iff.mpr ha]

theorem acceptedBytes_of_no_push {s : State} (ha : ∀ b, actor s ≠ .command (.push b)) (t : State) :
    acceptedBytes s t = [] := by
  unfold acceptedBytes
  split
  · exact absurd (pendingCommand_eq_some_iff.mp ‹_›) (ha _)
  · rfl

theorem deliveredFrames_pop {s : State} (ha : actor s = .command .pop) (t : State) :
    deliveredFrames s t = if t.err = 0 then [deliveredFrame t] else [] := by
  rw [deliveredFrames, pendingCommand_eq_some_iff.mpr ha]

theorem deliveredFrames_of_no_pop {s : State} (ha : actor s ≠ .command .pop) (t : State) :
    deliveredFrames s t = [] := by
  unfold deliveredFrames
  split
  · exact absurd (pendingCommand_eq_some_iff.mp ‹_›) ha
  · rfl

theorem length_of_mem_deliveredFrames {s t : State} {frame : List Byte} (h : frame ∈ deliveredFrames s t) :
    frame.length = 12 := by
  unfold deliveredFrames at h
  split at h
  · split at h
    · rw [List.mem_singleton.mp h, deliveredFrame_length]
    · cases h
  · cases h

/-- A step that does not reset the block moves bytes from the stream into the buffer and from there into frames, in
order, and loses none (R155). -/
theorem step_stream {s t : State} (h : step s = .next t) (hsrst : actor s ≠ .command .srst)
    (hreset : actor s ≠ .reset) :
    s.buf ++ acceptedBytes s t = (deliveredFrames s t).flatten ++ t.buf := by
  by_cases hpop : actor s = .command .pop
  · obtain ⟨rest, he⟩ := commandEffect_of_actor h hpop
    rw [acceptedBytes_of_no_push (by simp [hpop]), deliveredFrames_pop hpop]
    cases he with
    | failed hcode => simp [resultCode_code_ne_zero hcode]
    | extracted _ hi _ => simp at hi
    | popped hframe => simp [deliveredFrame_takeFrame hframe]
  · rw [deliveredFrames_of_no_pop hpop]
    by_cases hpush : ∃ b, actor s = .command (.push b)
    · obtain ⟨b, hb⟩ := hpush
      obtain ⟨rest, he⟩ := commandEffect_of_actor h hb
      rw [acceptedBytes_push hb]
      cases he with
      | failed hcode => simp [resultCode_code_ne_zero hcode]
      | extracted _ hi _ => simp at hi
      | pushed _ _ => simp
    · have hno : ∀ b, actor s ≠ .command (.push b) := not_exists.mp hpush
      have hbuf := Proofs.StateRules.bufferChangesOnlyByPushPopOrReset s t h hno hpop hsrst hreset
      simp [acceptedBytes_of_no_push hno, hbuf]

theorem actor_ne_reset_of_inputs {s : State} {n : Nat} (h : ∀ x ∈ s.pending.take (n + 1), endsStream x = false) :
    actor s ≠ .command .srst ∧ actor s ≠ .reset := by
  rcases hp : s.pending with _ | ⟨x, rest⟩
  · simp [actor, hp]
  · have hx : endsStream x = false := h x (by simp [hp])
    rw [actor_cons hp]
    simpa [endsStream, and_comm] using hx

/-! ## The stream over a run -/

theorem streamOf_succ (n : Nat) {s t : State} (h : step s = .next t) :
    streamOf (n + 1) s = (acceptedBytes s t ++ (streamOf n t).1, deliveredFrames s t ++ (streamOf n t).2) := by
  rw [streamOf, h]

theorem length_of_mem_streamOf {n : Nat} {s : State} {frame : List Byte} (h : frame ∈ (streamOf n s).2) :
    frame.length = 12 := by
  induction n generalizing s with
  | zero => cases h
  | succ n ih =>
    obtain ⟨t, hstep, -⟩ := step_next s
    rw [streamOf_succ n hstep] at h
    rcases List.mem_append.mp h with hfirst | hlater
    · exact length_of_mem_deliveredFrames hfirst
    · exact ih hlater

/-- The bytes buffered and then accepted are those of the frames delivered and then those left in the buffer (R155). -/
theorem run_stream {n : Nat} {s t : State} (hin : ∀ x ∈ s.pending.take n, endsStream x = false)
    (h : Host.Core.run Sys2Proof.core n s = .next t) :
    s.buf ++ (streamOf n s).1 = (streamOf n s).2.flatten ++ t.buf := by
  induction n generalizing s with
  | zero =>
    cases h
    simp [streamOf]
  | succ n ih =>
    obtain ⟨u, hstep, hpending⟩ := step_next s
    obtain ⟨hsrst, hreset⟩ := actor_ne_reset_of_inputs hin
    have htail : u.pending.take n = (s.pending.take (n + 1)).tail := by
      rw [hpending, List.tail_take_eq_take_tail, Nat.add_sub_cancel]
    have hlater : ∀ x ∈ u.pending.take n, endsStream x = false :=
      fun x hx => hin x (List.mem_of_mem_tail (htail ▸ hx))
    rw [run_succ n hstep] at h
    rw [streamOf_succ n hstep, List.flatten_append, ← List.append_assoc, step_stream hstep hsrst hreset,
      List.append_assoc, ih hlater h, List.append_assoc]

/-! ## Lists cut in pieces of one length -/

theorem drop_flatten_append {α : Type} {k j : Nat} {frames : List (List α)} (h : ∀ f ∈ frames, f.length = k)
    (hj : j ≤ frames.length) (rest : List α) :
    (frames.flatten ++ rest).drop (k * j) = (frames.drop j).flatten ++ rest := by
  have hlen : (frames.take j).flatten.length = k * j := by
    rw [List.length_flatten, List.sum_eq_card_nsmul _ k, List.length_map, List.length_take_of_le hj, smul_eq_mul,
      Nat.mul_comm]
    exact List.forall_mem_map.mpr fun f hf => h f (List.mem_of_mem_take hf)
  conv_lhs => rw [← List.take_append_drop j frames, List.flatten_append, List.append_assoc, ← hlen]
  exact List.drop_left

theorem take_drop_flatten_append {α : Type} {k j : Nat} {frames : List (List α)} {frame : List α}
    (h : ∀ f ∈ frames, f.length = k) (hj : frames[j]? = some frame) (rest : List α) :
    ((frames.flatten ++ rest).drop (k * j)).take k = frame := by
  obtain ⟨hlt, hframe⟩ := List.getElem?_eq_some_iff.mp hj
  rw [drop_flatten_append h hlt.le, List.drop_eq_getElem_cons hlt, hframe, List.flatten_cons, List.append_assoc,
    ← h frame (List.mem_of_getElem? hj), List.take_left]

end Sys2Proof.Machine

namespace Sys2Proof.Proofs.Assemble
open Sys2Proof.Machine

/-- Settles O38: PUSH's word is the one that encodes it, and the buffer is full or has room. -/
theorem pushAppendsOrRefusesTheByte : Obligations.PushAppendsOrRefusesTheByte :=
  fun _ b => ⟨decode_eq_ok_iff.mpr (encode_push b), exec_push_room, exec_push_full⟩

/-- Settles O39: the bytes of ID and DATA are the first twelve of the buffer. -/
theorem popDeliversTheOldestFrame : Obligations.PopDeliversTheOldestFrame := by
  refine ⟨decode_eq_ok_iff.mpr rfl, fun s hshort => exec_pop_short hshort, fun s f rest hf hbuf => ?_⟩
  have hbyte {k : Nat} (hk : k < 12) : bufByte s k = f[k]! := bufByte_append hbuf (hf ▸ hk)
  have hframe : 12 ≤ s.buf.length := by
    rw [hbuf, List.length_append, hf]
    omega
  refine ⟨finishOk (takeFrame s), exec_pop_frame hframe, ?_, fun i hi => ?_, ?_⟩
  · rw [finishOk_id, takeFrame_id, be32_toNat, hbyte (by decide), hbyte (by decide), hbyte (by decide),
      hbyte (by decide)]
  · exact (payloadByte_takeFrame s hi).trans (hbyte (by omega))
  · have hrest : s.buf.drop 12 = rest := by rw [hbuf, ← hf, List.drop_left]
    rw [← hrest]
    rfl

/-- Settles O40: the stream's balance over the run, cut at multiples of twelve. -/
theorem framesDoNotDependOnChunking : Obligations.FramesDoNotDependOnChunking := by
  intro n s t hempty hin hrun
  have hframes : ∀ f ∈ (streamOf n s).2, f.length = 12 := fun f => length_of_mem_streamOf
  have hstream := run_stream hin hrun
  rw [hempty, List.nil_append] at hstream
  rw [hstream]
  refine ⟨fun j frame hj => ⟨?_, hframes frame (List.mem_of_getElem? hj)⟩, ?_⟩
  · exact (take_drop_flatten_append hframes hj t.buf).symm
  · rw [drop_flatten_append hframes le_rfl, List.drop_length, List.flatten_nil, List.nil_append]

/-- Settles O41: a full buffer holds at least the twelve bytes a POP takes. -/
theorem fullBufferAlwaysMakesRoom : Obligations.FullBufferAlwaysMakesRoom := by
  have hcap := asmCap_ge
  refine ⟨fun s b hfull => ?_, fun s b => ?_⟩
  · have hroom : (finishOk (takeFrame s)).buf.length ≠ Config.asmCap := by
      rw [finishOk_buf, takeFrame_buf, List.length_drop, frameBytes]
      omega
    exact ⟨_, _, exec_pop_frame (by omega), rfl, exec_push_room hroom, rfl, rfl⟩
  · by_cases hfull : s.buf.length = Config.asmCap
    · exact .inr ⟨_, exec_pop_frame (by omega), rfl⟩
    · exact .inl ⟨_, exec_push_room hfull, rfl⟩

end Sys2Proof.Proofs.Assemble
end

section
/-! The system commands (43_system.md): SRST's word and its effect, the reset of the block (R170). -/

namespace Sys2Proof.Machine

theorem encode_srst : encode .srst = 0x00000006 := rfl

/-- SRST has no condition: in every state it resets the block, as the reset input does (R201). -/
theorem exec_srst (s : State) : exec .srst s = .next (resetBlock s) := rfl

end Sys2Proof.Machine

namespace Sys2Proof.Proofs.System
open Sys2Proof.Machine

/-- Settles O42: the word is the one that encodes SRST, and `resetBlock` is the state of R39's values with the model's
own two fields kept. -/
theorem srstResetsTheBlock : Obligations.SrstResetsTheBlock :=
  ⟨decode_eq_ok_iff.mpr encode_srst, exec_srst⟩

end Sys2Proof.Proofs.System
end

section
/-! The result codes (60_exceptions.md): the code a write of CMD ends with (R181, R190), and what a failing command
leaves of the state, alone and in a sequence (R191, R192). -/

namespace Sys2Proof.Machine

/-! ## The code a command ends with -/

/-- A write of CMD ends with a result code of R181, and its number is the one R190's order gives. -/
theorem runCommand_code (w : Word) (s : State) :
    ∃ t c, runCommand w s = .next t ∧ t.err = ResultCode.code c ∧ c.code.toNat = expectedCode w s := by
  rcases hd : decode w with r | i
  · exact ⟨_, .illegalCommand, runCommand_error hd s, rfl, by rw [expectedCode, hd]; rfl⟩
  rw [runCommand_ok hd, expectedCode, hd]
  cases i with
  | decomp => exact ⟨_, .ok, rfl, rfl, rfl⟩
  | extbyte =>
    rcases execExtbyte_cases s with ⟨hdesc, h⟩ | ⟨hstart, hlength, hlong, h⟩ | ⟨hstart, hlength, hfits, h⟩
    · exact ⟨_, .invalidDescriptor, h, rfl, (if_pos hdesc).symm⟩
    · exact ⟨_, .dataTooShort, h, rfl, by simp [hstart, hlength, hlong, ResultCode.code]⟩
    · exact ⟨_, .ok, h, rfl, by simp [hstart, hlength, hfits, ResultCode.code]⟩
  | extbit =>
    rcases execExtbit_cases s with ⟨hdesc, h⟩ | ⟨hstart, hlength, h⟩
    · exact ⟨_, .invalidDescriptor, h, rfl, (if_pos hdesc).symm⟩
    · exact ⟨_, .ok, h, rfl, (if_neg (not_or.mpr ⟨hstart, hlength⟩)).symm⟩
  | push b =>
    by_cases hfull : s.buf.length = Config.asmCap
    · exact ⟨_, .bufferFull, exec_push_full hfull, rfl, (if_pos hfull).symm⟩
    · exact ⟨_, .ok, exec_push_room hfull, rfl, (if_neg hfull).symm⟩
  | pop =>
    rcases execPop_cases s with ⟨hshort, h⟩ | ⟨hframe, h⟩
    · exact ⟨_, .noFrame, h, rfl, (if_pos hshort).symm⟩
    · exact ⟨_, .ok, h, rfl, (if_neg (Nat.not_lt.mpr hframe)).symm⟩
  | srst => exact ⟨_, .ok, rfl, rfl, rfl⟩

/-- The code depends on the block, not on the inputs still to come. -/
theorem expectedCode_takeInput (w : Word) (rest : List HostInput) (s : State) :
    expectedCode w (takeInput rest s) = expectedCode w s := rfl

/-! ## What a failing command leaves -/

/-- Of the things a command can do, only a failure leaves a code other than OK, and it writes that code alone. -/
theorem commandEffect_failed {i : Instr} {s t : State} (he : CommandEffect s i t) (herr : t.err ≠ 0) :
    t = { s with err := t.err } := by
  cases he with
  | failed _ => rfl
  | decomposed | extracted _ _ _ | pushed _ _ | popped _ => exact absurd (finishOk_err _) herr
  | reset => exact absurd (resetBlock_err s) herr

theorem step_failed {s t : State} {w : Word} {rest : List HostInput} (hp : s.pending = .write 0x00 w :: rest)
    (h : step s = .next t) (herr : t.err ≠ 0) : t = { s with pending := rest, err := t.err } := by
  rw [step_command hp] at h
  rcases hd : decode w with r | i
  · rw [runCommand_error hd] at h
    cases h
    rfl
  · rw [runCommand_ok hd] at h
    exact commandEffect_failed (commandEffect_of_exec h) herr

/-- Each failing command hands the state on to the next with only ERR rewritten, so the last code is all that stays. -/
theorem run_failed {ws : List Word} {s t : State} (hp : s.pending = ws.map (HostInput.write 0x00))
    (hfail : ∀ k < ws.length, ∀ u, Host.Core.run Sys2Proof.core (k + 1) s = .next u → u.err ≠ 0)
    (h : Host.Core.run Sys2Proof.core ws.length s = .next t) : t = { s with pending := [], err := t.err } := by
  induction ws generalizing s with
  | nil =>
    cases h
    exact congrArg (takeInput · t) hp
  | cons w ws ih =>
    obtain ⟨u, hstep, -⟩ := step_next s
    have hu := step_failed hp hstep (hfail 0 (Nat.zero_lt_succ _) u (run_succ 0 hstep))
    have hlater : ∀ k < ws.length, ∀ v, Host.Core.run Sys2Proof.core (k + 1) u = .next v → v.err ≠ 0 :=
      fun k hk v hv => hfail (k + 1) (Nat.succ_lt_succ hk) v ((run_succ (k + 1) hstep).trans hv)
    have hpending : u.pending = ws.map (HostInput.write 0x00) := congrArg State.pending hu
    have ht := ih hpending hlater ((run_succ ws.length hstep).symm.trans h)
    rw [hu] at ht
    exact ht

end Sys2Proof.Machine

namespace Sys2Proof.Proofs.Exceptions
open Sys2Proof.Machine

/-- Settles O44: a write of CMD runs its word on the state with the input taken, and ends with a code of R181. -/
theorem everyCommandEndsWithItsResultCode : Obligations.EveryCommandEndsWithItsResultCode := by
  intro s w rest hp
  obtain ⟨t, c, hrun, herr, hcode⟩ := runCommand_code w (takeInput rest s)
  rw [expectedCode_takeInput] at hcode
  rw [step_command hp]
  refine ⟨t, hrun, ?_, ?_⟩ <;> rw [herr]
  · exact hcode
  · exact resultCode_code_le c

/-- Settles O45: a command that does not end OK is an illegal word or takes the failing branch of its rule. -/
theorem failedCommandsChangeOnlyErr : Obligations.FailedCommandsChangeOnlyErr :=
  fun _ _ _ _ hp hstep herr => step_failed hp hstep herr

/-- Settles O46: by induction on the sequence, one failing command at a time. -/
theorem failingSequencesLeaveOnlyTheLastCode : Obligations.FailingSequencesLeaveOnlyTheLastCode :=
  fun _ _ _ hp hfail hrun => run_failed hp hfail hrun

end Sys2Proof.Proofs.Exceptions
end

section
/-! Reset and hazards (70_reset_and_hazards.md): what either reset leaves (R200, R201), and an extract issued while one
half of a 64-bit operand is new and the other is old (R207). -/

namespace Sys2Proof.Machine

/-! ## The two resets -/

/-- The reset input and SRST do the same to the block (R200). -/
theorem step_reset {s : State} {rest : List HostInput}
    (h : s.pending = .reset :: rest ∨ s.pending = .write 0x00 0x00000006 :: rest) :
    step s = .next (resetBlock (takeInput rest s)) := by
  rcases h with hinput | hsrst
  · exact step_transact hinput rfl
  · exact (step_issue (i := .srst) hsrst).trans (exec_srst _)

/-- Nothing of the block survives a reset (R201). -/
@[simp] theorem resetBlock_block (s : State) : (resetBlock s).block = State.reset.block := rfl

/-! ## The operands of an extract after one register write -/

/-- What any operand register but DESC, which masks its value, holds after a host write (R62). -/
theorem readReg_writeReg_heldAfter (cap : Nat) (r : Reg) {r' : Reg} (haccess : r'.access = .readWrite)
    (hdesc : r' ≠ .desc) (v : Word) (s : State) :
    readReg cap (writeReg r v s) r' = heldAfter r v r' (readReg cap s r') := by
  rw [readReg_writeReg, heldAfter]
  by_cases h : r' = r
  · subst h
    rw [if_pos ⟨rfl, haccess⟩, if_neg hdesc, if_pos rfl]
  · rw [if_neg (fun hboth => h hboth.1), if_neg h]

theorem payload_writeReg (r : Reg) (v : Word) (s : State) :
    payload (writeReg r v s) = heldAfter r v .dataHi s.dataHi ++ heldAfter r v .dataLo s.dataLo :=
  congrArg₂ (· ++ ·) (readReg_writeReg_heldAfter Config.asmCap r (r' := .dataHi) rfl (by decide) v s)
    (readReg_writeReg_heldAfter Config.asmCap r (r' := .dataLo) rfl (by decide) v s)

theorem resolution_writeReg (r : Reg) (v : Word) (s : State) :
    resolution (writeReg r v s) = heldAfter r v .resHi s.resHi ++ heldAfter r v .resLo s.resLo :=
  congrArg₂ (· ++ ·) (readReg_writeReg_heldAfter Config.asmCap r (r' := .resHi) rfl (by decide) v s)
    (readReg_writeReg_heldAfter Config.asmCap r (r' := .resLo) rfl (by decide) v s)

theorem offset_writeReg (r : Reg) (v : Word) (s : State) :
    offset (writeReg r v s) = heldAfter r v .offHi s.offHi ++ heldAfter r v .offLo s.offLo :=
  congrArg₂ (· ++ ·) (readReg_writeReg_heldAfter Config.asmCap r (r' := .offHi) rfl (by decide) v s)
    (readReg_writeReg_heldAfter Config.asmCap r (r' := .offLo) rfl (by decide) v s)

theorem writeReg_keeps_desc {r : Reg} (h : r ≠ .desc) (v : Word) (s : State) : (writeReg r v s).desc = s.desc :=
  (readReg_writeReg Config.asmCap r .desc v s).trans (if_neg fun hboth => h hboth.1.symm)

/-! ## A register write, then an extract -/

/-- An extract whose descriptor its rule accepts ends OK, RAW holding its field of the payload and SCALED what scaling
gives for it (R122, R124). -/
theorem exec_extract_accepted {i : Instr} {s : State} (hi : i = .extbyte ∨ i = .extbit) (hstart : descStart s ≠ 0)
    (hlength : descLength s ≠ 0) (hfits : i = .extbyte → descStart s - 1 + descLength s ≤ 8) :
    ∃ t, exec i s = .next t ∧ t.err = 0 ∧
      (i = .extbyte →
        (rawValue t).toNat = (payload s).toNat / 2 ^ (8 * (descStart s - 1)) % 2 ^ (8 * descLength s)) ∧
      (i = .extbit →
        (rawValue t).toNat =
          if descStart s - 1 < 64 then
            (payload s).toNat / 2 ^ (descStart s - 1) % 2 ^ min (descLength s) (64 - (descStart s - 1))
          else 0) ∧
      ScaledFrom s (rawValue t) (scaledValue t) := by
  rcases hi with rfl | rfl
  · obtain ⟨-, -, hextbyte⟩ := Proofs.Extract.extbyteGathersBytesLittleEndian
    obtain ⟨t, hexec, -, hraw, hscaled, ht⟩ := (hextbyte s hstart hlength).2 (hfits rfl)
    exact ⟨t, hexec, congrArg State.err ht, fun _ => hraw, nofun, hscaled⟩
  · obtain ⟨t, hexec, hraw, hscaled, ht⟩ := Proofs.Extract.extbitGathersTheBitsThereAre.2 s hstart hlength
    exact ⟨t, hexec, congrArg State.err ht, nofun, fun _ => hraw, hscaled⟩

/-- A register write and then a command: the command runs on what the write left. -/
theorem run_write_issue {r : Reg} (hr : r ≠ .cmd) {v : Word} {i : Instr} {rest : List HostInput} {s t : State}
    (h : s.pending = writeTo r v :: issue i :: rest)
    (hexec : exec i (takeInput rest (writeReg r v (takeInput (issue i :: rest) s))) = .next t) :
    Host.Core.run Sys2Proof.core 2 s = .next t := by
  rw [run_write 1 hr h, run_succ 0 ((step_issue (writeReg_pending _ _ _)).trans hexec), run_zero]

end Sys2Proof.Machine

namespace Sys2Proof.Proofs.ResetAndHazards
open Sys2Proof.Machine

/-- Settles O43: either input makes the step `resetBlock`, which keeps only the model's own two fields. -/
theorem bothResetsLeaveTheResetState : Obligations.BothResetsLeaveTheResetState :=
  fun s rest h => ⟨_, step_reset h, resetBlock_block (takeInput rest s), rfl, rfl⟩

/-- Settles O47: a write of a half leaves DESC and the other half alone, and the extract takes its operands from the
state the write left. -/
theorem halfWrittenPairsAreUsedAsTheyStand : Obligations.HalfWrittenPairsAreUsedAsTheyStand := by
  intro s r v i rest hr hi hp hstart hlength hfits
  have hcmd : r ≠ .cmd := by
    rintro rfl
    simp at hr
  have hdesc : r ≠ .desc := by
    rintro rfl
    simp at hr
  let s₁ : State := takeInput (issue i :: rest) s
  let u : State := takeInput rest (writeReg r v s₁)
  have hkeep : u.desc = s.desc := writeReg_keeps_desc hdesc v s₁
  have hstart' : descStart u = descStart s := by rw [descStart, descStart, hkeep]
  have hlength' : descLength u = descLength s := by rw [descLength, descLength, hkeep]
  rw [← hstart', ← hlength'] at hfits ⊢
  rw [← hstart'] at hstart
  rw [← hlength'] at hlength
  obtain ⟨t, hexec, herr, hbyte, hbit, hscaled⟩ := exec_extract_accepted hi hstart hlength hfits
  exact ⟨t, payload u, resolution u, offset u, run_write_issue hcmd hp hexec, herr, payload_writeReg r v s₁,
    resolution_writeReg r v s₁, offset_writeReg r v s₁, hbyte, hbit, hscaled⟩

end Sys2Proof.Proofs.ResetAndHazards
end
